-- ==== Sys2Proof/Word.lean ====
section
/-! DEFINITION. The word types of the block (00_scope.md R11, R12, R17). -/

namespace Sys2Proof

/-- One byte of a buffer. -/
abbrev Byte := BitVec 8

/-- One host data word, a command word, or a 32-bit register (20_memory.md R202). -/
abbrev Word32 := BitVec 32

/-- A value register, `W` = 64 bits (00_scope.md R9). -/
abbrev Word64 := BitVec 64

/-- A Letter: an integer in [0, 25], 'A' = 0 (00_scope.md R17). -/
abbrev Letter := Fin 26

end Sys2Proof
end

