-- ==== Sys2Proof/Syntax.lean ====
section
/-! DEFINITION. The ten commands of 30_encoding.md R301, one constructor per row of spec/opcode_table.json. -/

namespace Sys2Proof

/-- A command. The command word has no register, immediate or mode field (R300), so no constructor has an argument. -/
inductive Instr where
  /-- 0x01, 41_modular_arithmetic.md R455. -/
  | modexp
  /-- 0x02, 41_modular_arithmetic.md R456. -/
  | modinv
  /-- 0x03, 41_modular_arithmetic.md R457. -/
  | isprime
  /-- 0x04, 44_rsa.md R600. -/
  | rsakeygen
  /-- 0x05, 44_rsa.md R601. -/
  | rsaenc
  /-- 0x06, 44_rsa.md R602. -/
  | rsadec
  /-- 0x10, 42_affine.md R502. -/
  | affenc
  /-- 0x11, 42_affine.md R503. -/
  | affdec
  /-- 0x20, 43_transposition.md R551. -/
  | colenc
  /-- 0x21, 43_transposition.md R552. -/
  | coldec
deriving DecidableEq, Repr

end Sys2Proof
end

