-- ==== Sys2Proof/Machine/Terms.lean ====
section
/-! DEFINITION. The names of registers and buffers, the host's bus accesses, the agents' turns, the bus responses, and the
error catalogue. -/

namespace Sys2Proof.Machine

/-- The 32-bit registers at offsets 0x000 to 0x020 (10_state.md section 2). -/
inductive Reg32 where
  | id | ctrl | cmd | status | err | inLen | keyLen | outLen | grid
deriving DecidableEq, Repr

/-- The 64-bit value registers at offsets 0x040 to 0x07F (10_state.md R110, R111, R112). -/
inductive Reg64 where
  | op0 | op1 | op2 | result | keyN | keyPhi | keyE | keyD
deriving DecidableEq, Repr

/-- The four byte buffers (10_state.md R114 to R117). -/
inductive Buf where
  | keyBuf | rankBuf | inBuf | outBuf
deriving DecidableEq, Repr

/-- What an offset of the window names (20_memory.md R201). -/
inductive Target where
  | reg32 (r : Reg32)
  /-- One 32-bit half of a 64-bit register; `high` at its offset + 4 (R204). -/
  | half (r : Reg64) (high : Bool)
  | buffer (b : Buf)
  | reserved
deriving DecidableEq, Repr

/-- One host bus access's direction, size and data (20_memory.md R202). -/
inductive BusOp where
  | rd8
  | rd32
  | wr8 (data : Byte)
  | wr32 (data : Word32)
  /-- An access of another size than 8 or 32 bits, which is a bus error anywhere (R202). -/
  | otherSize (isRead : Bool) (bits : Nat)
deriving DecidableEq, Repr

/-- A host bus access at a byte address of the host bus (20_memory.md R200). -/
structure BusAccess where
  addr : Nat
  op   : BusOp
deriving DecidableEq, Repr

/-- One turn of the total order of 20_memory.md R212: who moves next, and for a host access which one. -/
inductive Turn where
  /-- The engine is scheduled; it steps if it is enabled (40_codec_and_command.md R402). -/
  | engine
  /-- The host makes one bus access (40_codec_and_command.md R400). -/
  | host (a : BusAccess)
  /-- The platform asserts and releases the reset input (70_reset_and_hazards.md R800). -/
  | powerOn
deriving DecidableEq, Repr

/-- What the block answers on the host bus. -/
inductive Response where
  /-- No answer: no access yet, or an address outside the window (20_memory.md R201). -/
  | none
  | data8 (d : Byte)
  | data32 (d : Word32)
  /-- A permitted write was taken, or ignored as R206 and R207 say. -/
  | written
  /-- A bus error on a read; it returns data 0 (R205). -/
  | readError (data : Nat)
  /-- A bus error on a write (R205). -/
  | writeError
deriving DecidableEq, Repr

/-- The error catalogue (60_exceptions.md R700). -/
inductive CmdError where
  | emptyInput | invalidKey | invalidNumber | messageTooLarge | noInverseExists | illegalCommand
deriving DecidableEq, Repr

end Sys2Proof.Machine
end

