-- ==== Sys2Proof/WellFormed.lean ====
section
/-! DEFINITION. Which terms are well formed. -/

namespace Sys2Proof

/-- Every command is well formed: the command word has no operand field whose value could be out of range
(30_encoding.md R300), so there is nothing to check. -/
def Instr.wf : Instr → Bool
  | .modexp | .modinv | .isprime | .rsakeygen | .rsaenc | .rsadec | .affenc | .affdec | .colenc | .coldec => true

/-- `otherSize` stands for a size that is not 8 or 32 bits (20_memory.md R202). -/
def Machine.BusOp.wf : Machine.BusOp → Bool
  | .rd8 | .rd32 | .wr8 _ | .wr32 _ => true
  | .otherSize _ bits => bits != 8 && bits != 32

/-- An access is well formed when its operation is; its address is any bus address. -/
def Machine.BusAccess.wf (a : Machine.BusAccess) : Bool := a.op.wf

/-- A turn is well formed when its access is. -/
def Machine.Turn.wf : Machine.Turn → Bool
  | .engine | .powerOn => true
  | .host a => a.wf

end Sys2Proof
end

