-- ==== Sys2Proof/Decode.lean ====
section
/-! DEFINITION. The command word (30_encoding.md R300 to R304): decoder, encoder and disassembler (R310). -/

namespace Sys2Proof

/-- Why a word is not a command (30_encoding.md R302). Either way the engine completes it with IllegalCommand. -/
inductive Reject where
  /-- RSVD is not 0. -/
  | reservedBits (rsvd : BitVec 24)
  /-- RSVD is 0 and OPC is one of the 246 unassigned values (R303). -/
  | unassignedOpcode (opc : BitVec 8)
deriving DecidableEq, Repr

/-- `OPC`, bits [7:0] (R300). -/
def opcField (w : Word32) : BitVec 8 := w.extractLsb' 0 8

/-- `RSVD`, bits [31:8] (R300). -/
def rsvdField (w : Word32) : BitVec 24 := w.extractLsb' 8 24

/-- The opcode map (R301). -/
def decodeOpc (opc : BitVec 8) : Option Instr :=
  match opc.toNat with
  | 0x01 => some .modexp
  | 0x02 => some .modinv
  | 0x03 => some .isprime
  | 0x04 => some .rsakeygen
  | 0x05 => some .rsaenc
  | 0x06 => some .rsadec
  | 0x10 => some .affenc
  | 0x11 => some .affdec
  | 0x20 => some .colenc
  | 0x21 => some .coldec
  | _ => none

/-- A word is legal exactly when `RSVD = 0` and `OPC` is in the map (R301); every other word is rejected by name. -/
def decode (w : Word32) : Except Reject Instr :=
  if rsvdField w = 0 then
    match decodeOpc (opcField w) with
    | some i => .ok i
    | none => .error (.unassignedOpcode (opcField w))
  else .error (.reservedBits (rsvdField w))

/-- The full 32-bit word of a command (R301's list of legal words). -/
def encode : Instr → Word32
  | .modexp => 0x00000001
  | .modinv => 0x00000002
  | .isprime => 0x00000003
  | .rsakeygen => 0x00000004
  | .rsaenc => 0x00000005
  | .rsadec => 0x00000006
  | .affenc => 0x00000010
  | .affdec => 0x00000011
  | .colenc => 0x00000020
  | .coldec => 0x00000021

/-- The host's view of the decoder: a table row's word of `nbits` bits, as one 32-bit CMD write (R304). -/
def decodeTableWord (nbits w : Nat) : Option Instr :=
  (decode (BitVec.ofNat 32 (w % 2 ^ nbits))).toOption

/-- The spelling of a command (R301). -/
def Instr.mnemonic : Instr → String
  | .modexp => "MODEXP"
  | .modinv => "MODINV"
  | .isprime => "ISPRIME"
  | .rsakeygen => "RSAKEYGEN"
  | .rsaenc => "RSAENC"
  | .rsadec => "RSADEC"
  | .affenc => "AFFENC"
  | .affdec => "AFFDEC"
  | .colenc => "COLENC"
  | .coldec => "COLDEC"

/-- One hex digit, in capitals (DESIGN CHOICE, safe: log 14). -/
def hexDigit (n : Nat) : Char :=
  if n < 10 then Char.ofNat (48 + n) else Char.ofNat (55 + n)

/-- The `n` low hex digits of `v`, most significant first. -/
def hexDigits : (n v : Nat) → List Char
  | 0, _ => []
  | n + 1, v => hexDigit (v / 16 ^ n % 16) :: hexDigits n v

/-- The disassembly of a CMD word (R310). -/
def disassemble (w : Word32) : String :=
  match decode w with
  | .ok i => i.mnemonic
  | .error _ => ".illegal 0x" ++ String.ofList (hexDigits 8 w.toNat)

end Sys2Proof
end

