-- ==== Sys2Proof/Config.lean ====
section
/-! DEFINITION. The parameters of 00_scope.md R9, and what the spec leaves free: the base address, the power-on bytes
and what the platform returns outside the window. -/

namespace Sys2Proof.Config

/-- `ID_VALUE` (R9, R101): ASCII "MEX1". -/
def idValue : Word32 := 0x4D455831

/-- `IN_MAX` (R9): capacity in bytes of IN_BUF. -/
def inMax : Nat := 1024

/-- `KEY_MAX` (R9): capacity in bytes of KEY_BUF and of RANK_BUF. -/
def keyMax : Nat := 64

/-- `OUT_MAX` (R9): capacity in bytes of OUT_BUF. -/
def outMax : Nat := 2048

/-- The size of the block's window, 8 KiB (20_memory.md R200). -/
def windowSize : Nat := 0x2000

/-- Which 8 KiB block of the host bus holds the window: the platform's choice, OPEN
(00_scope.md R9, 93_implementation_defined.md I14). DESIGN CHOICE, safe: log 6. -/
opaque windowIndex : Nat

/-- `BASE` (R9): the 8 KiB aligned bus address of the window (I14). -/
def base : Nat := windowSize * windowIndex

/-- FREE VALUE: the content, since power-on number `epoch`, of the buffer byte at window offset `off` that nothing has
written (10_state.md R123, 93_implementation_defined.md I1: any value). DESIGN CHOICE, safe: log 5. -/
opaque powerOnByte : (epoch off : Nat) → Byte

/-- FREE VALUE: what the platform returns to a host script's read number `reads` at the bus address `addr` outside the
window, where the block never responds (20_memory.md R201 leaves it to the platform). DESIGN CHOICE, safe: log 7. -/
opaque platformData : (reads addr : Nat) → Word32

end Sys2Proof.Config
end

