-- ==== Sys2Proof/Machine/State.lean ====
section
/-! DEFINITION. The block's architectural state (10_state.md R100, a closed list), its value after power-on reset
(R123), and the ways a step can stop. -/

namespace Sys2Proof.Machine

/-- The buffers' contents: (window offset, byte) pairs, offsets strictly rising; an offset that is not listed holds no
value (93_implementation_defined.md I1). -/
abbrev Memory := List Host.Cell

/-- The state of the block. The fields up to `mem` are the spec's, all of R100; the last three are the model's own. -/
structure State where
  /-- CTRL.IE (R102). -/
  ie : Bool
  /-- The last accepted command word (R103). -/
  cmd : Word32
  /-- STATUS.BUSY (R104). -/
  busy : Bool
  /-- STATUS.DONE (R104). -/
  done : Bool
  /-- STATUS.ERRF (R104). -/
  errf : Bool
  /-- STATUS.KEY_VALID (R104, R113). -/
  keyValid : Bool
  /-- STATUS.WERR (R104). -/
  werr : Bool
  /-- ERR.CODE (R105). -/
  errCode : BitVec 4
  /-- IN_LEN (R106). -/
  inLen : Word32
  /-- KEY_LEN (R107). -/
  keyLen : Word32
  /-- OUT_LEN (R108). -/
  outLen : Word32
  /-- GRID.NROWS (R109). -/
  nrows : BitVec 16
  /-- GRID.NCOLS (R109). -/
  ncols : BitVec 16
  /-- OP0 (R110). -/
  op0 : Word64
  /-- OP1 (R110). -/
  op1 : Word64
  /-- OP2 (R110). -/
  op2 : Word64
  /-- RESULT (R111). -/
  result : Word64
  /-- KEY_N (R112). -/
  keyN : Word64
  /-- KEY_PHI (R112). -/
  keyPhi : Word64
  /-- KEY_E (R112). -/
  keyE : Word64
  /-- KEY_D (R112). -/
  keyD : Word64
  /-- IN_BUF, KEY_BUF, RANK_BUF and OUT_BUF (R114 to R117). -/
  mem : Memory
  /-- MODEL'S OWN: the coming turns of the agents, the total order of 20_memory.md R212 (log 1). -/
  turns : List Turn
  /-- MODEL'S OWN: what the block answered to the last host access (log 8). -/
  resp : Response
  /-- MODEL'S OWN: how many power-on resets there have been; the free power-on bytes depend on it (log 5). -/
  powerEpoch : Nat
deriving DecidableEq, Repr

/-- Right after power-on reset (10_state.md R123, 70_reset_and_hazards.md R800): every register 0, the block idle, no
buffer byte holding a value. The last three fields: DESIGN CHOICE, log 17. -/
def State.reset : State :=
  { ie := false, cmd := 0, busy := false, done := false, errf := false, keyValid := false, werr := false, errCode := 0,
    inLen := 0, keyLen := 0, outLen := 0, nrows := 0, ncols := 0, op0 := 0, op1 := 0, op2 := 0, result := 0,
    keyN := 0, keyPhi := 0, keyE := 0, keyD := 0, mem := [], turns := [], resp := .none, powerEpoch := 0 }

/-- Why a step stops with a fault. -/
inductive Fault where
  /-- Raised by `hostTurn` when the host makes a forbidden access (20_memory.md R202, R203, R205). The block changes no
  state; what the host does with the error response is the platform's (93_implementation_defined.md I2). Safe. -/
  | hostBusError
  /-- Raised by a text command that reads a byte of IN_BUF or KEY_BUF that holds no value
  (93_implementation_defined.md I1). Safe. -/
  | unwrittenByte (b : Buf)
deriving DecidableEq, Repr

/-- Why a step is refused. -/
inductive Refusal where
  /-- Raised by `exec` for a command that has no meaning yet (none is left). Safe. -/
  | notModelled (mnemonic : String)
deriving DecidableEq, Repr

end Sys2Proof.Machine
end

