-- ==== Sys2Proof/Machine/Flags.lean ====
section
/-! DEFINITION. The status, error, control and grid words, and every rule that sets or clears a flag (10_state.md R102,
R104, R105, R109, R118, R120; 40_codec_and_command.md R401, R403; 60_exceptions.md R700). -/

namespace Sys2Proof.Machine

/-- The code of an error (60_exceptions.md R700). -/
def CmdError.code : CmdError → BitVec 4
  | .emptyInput => 1
  | .invalidKey => 2
  | .invalidNumber => 3
  | .messageTooLarge => 4
  | .noInverseExists => 5
  | .illegalCommand => 6

/-- The level of the interrupt output (10_state.md R118, 60_exceptions.md R710). -/
def State.irq (s : State) : Bool := s.ie && s.done

/-- CTRL as read: SRST and the reserved bits read 0 (R102). -/
def State.ctrlWord (s : State) : Word32 := (0 : BitVec 31) ++ BitVec.ofBool s.ie

/-- STATUS as read (R104). -/
def State.statusWord (s : State) : Word32 :=
  (0 : BitVec 27) ++ BitVec.ofBool s.werr ++ BitVec.ofBool s.keyValid ++ BitVec.ofBool s.errf ++ BitVec.ofBool s.done
    ++ BitVec.ofBool s.busy

/-- ERR as read (R105). -/
def State.errWord (s : State) : Word32 := (0 : BitVec 28) ++ s.errCode

/-- GRID as read: NCOLS above NROWS (R109). -/
def State.gridWord (s : State) : Word32 := s.ncols ++ s.nrows

/-- The code a completion records: 0 after success (10_state.md R105, 60_exceptions.md R700). -/
def outcomeCode : Option CmdError → BitVec 4
  | none => 0
  | some e => e.code

/-- `Complete(outcome)` (40_codec_and_command.md R403); `none` is Ok. -/
def State.complete (s : State) (outcome : Option CmdError) : State :=
  { s with errCode := outcomeCode outcome, errf := outcome.isSome, busy := false, done := true }

/-- A host write of STATUS: DONE and WERR are cleared by a 1, nothing else changes (R104). -/
def State.writeStatus (s : State) (d : Word32) : State :=
  { s with done := s.done && !d.getLsbD 1, werr := s.werr && !d.getLsbD 4 }

/-- A host write that is ignored because BUSY = 1 (20_memory.md R206). -/
def State.refuseWrite (s : State) : State := { s with werr := true }

/-- Acceptance of the word `w` by an idle block (40_codec_and_command.md R401). -/
def State.accept (s : State) (w : Word32) : State :=
  { s with cmd := w, busy := true, done := false, keyValid := s.keyValid && w != 0x00000004 }

end Sys2Proof.Machine
end

