-- ==== Sys2Proof/Machine/Ops.lean ====
section
/-! DEFINITION. The named operations over the buffers' memory and the registers, the two resets, and what a command that
raises an error leaves. -/

namespace Sys2Proof.Machine

/-- The byte at an offset; `none`: it holds no value (93_implementation_defined.md I1). -/
def Memory.read : Memory → Nat → Option Byte
  | [], _ => none
  | (k, v) :: m, a => if k = a then some v else Memory.read m a

/-- Writes one byte, keeping the offsets strictly rising. -/
def Memory.write : Memory → Nat → Byte → Memory
  | [], a, b => [(a, b)]
  | (k, v) :: m, a, b =>
    if a < k then (a, b) :: (k, v) :: m
    else if a = k then (a, b) :: m
    else (k, v) :: Memory.write m a b

/-- Every offset of `m` is above `lo`, and they rise strictly. -/
def Memory.risesAbove : (lo : Nat) → Memory → Bool
  | _, [] => true
  | lo, (k, _) :: m => decide (lo < k) && Memory.risesAbove k m

/-- The canonical form: offsets strictly rising. An unlisted offset holds no value, so no entry could equal it. -/
def Memory.wf : Memory → Bool
  | [] => true
  | (k, _) :: m => Memory.risesAbove k m

/-- Reads the `n` bytes from `a` one at a time in rising order (20_memory.md R210); `none` if one holds no value. -/
def Memory.readRun (m : Memory) : (a n : Nat) → Option (List Byte)
  | _, 0 => some []
  | a, n + 1 =>
    match Memory.read m a with
    | none => none
    | some b =>
      match Memory.readRun m (a + 1) n with
      | none => none
      | some bs => some (b :: bs)

/-- Writes the bytes from `a` up, one at a time in rising order. -/
def Memory.writeRun : (m : Memory) → (a : Nat) → List Byte → Memory
  | m, _, [] => m
  | m, a, b :: bs => Memory.writeRun (Memory.write m a b) (a + 1) bs

/-- The window offset of a buffer's byte 0 (20_memory.md R201). -/
def Buf.start : Buf → Nat
  | .keyBuf => 0x400
  | .rankBuf => 0x440
  | .inBuf => 0x800
  | .outBuf => 0x1000

/-- A buffer's capacity in bytes (20_memory.md R201, 00_scope.md R9). -/
def Buf.size : Buf → Nat
  | .keyBuf | .rankBuf => Config.keyMax
  | .inBuf => Config.inMax
  | .outBuf => Config.outMax

/-- `buf[i]`, or `none` if that byte holds no value (00_scope.md R15). -/
def State.byte (s : State) (b : Buf) (i : Nat) : Option Byte := Memory.read s.mem (b.start + i)

/-- `buf[0 .. n-1]`, or `none` if one of these bytes holds no value. -/
def State.bytes (s : State) (b : Buf) (n : Nat) : Option (List Byte) := Memory.readRun s.mem b.start n

/-- Writes `buf[0 .. |bs|-1]` and leaves the buffer's other bytes (92_eei_decisions.md D38). -/
def State.putBytes (s : State) (b : Buf) (bs : List Byte) : State :=
  { s with mem := Memory.writeRun s.mem b.start bs }

/-- The byte a host read sees at a buffer offset. A byte that holds no value reads as the free power-on byte of that
offset (93_implementation_defined.md I1: any value), the same at every read until it is written (log 5). -/
def State.hostByte (s : State) (off : Nat) : Byte :=
  match Memory.read s.mem off with
  | some b => b
  | none => Config.powerOnByte s.powerEpoch off

/-- Reads a 64-bit register (10_state.md R110 to R112). -/
def State.get64 (s : State) : Reg64 → Word64
  | .op0 => s.op0
  | .op1 => s.op1
  | .op2 => s.op2
  | .result => s.result
  | .keyN => s.keyN
  | .keyPhi => s.keyPhi
  | .keyE => s.keyE
  | .keyD => s.keyD

/-- Replaces one half of a 64-bit value (20_memory.md R204). -/
def setHalf (v : Word64) (high : Bool) (d : Word32) : Word64 :=
  if high then d ++ v.extractLsb' 0 32 else v.extractLsb' 32 32 ++ d

/-- One half of a 64-bit value (20_memory.md R204). -/
def getHalf (v : Word64) (high : Bool) : Word32 := if high then v.extractLsb' 32 32 else v.extractLsb' 0 32

/-- A write of one half of a 64-bit register: only OP0, OP1 and OP2 store it (10_state.md R110, 20_memory.md R207). -/
def State.setHalf64 (s : State) (r : Reg64) (high : Bool) (d : Word32) : State :=
  match r with
  | .op0 => { s with op0 := setHalf s.op0 high d }
  | .op1 => { s with op1 := setHalf s.op1 high d }
  | .op2 => { s with op2 := setHalf s.op2 high d }
  | .result | .keyN | .keyPhi | .keyE | .keyD => s

/-- `x[RESULT] <- v` (10_state.md R111); every value written is below 2^64 (41_modular_arithmetic.md R450). -/
def State.putResult (s : State) (v : Nat) : State := { s with result := BitVec.ofNat 64 v }

/-- Writes the whole key tuple (44_rsa.md R600; 10_state.md R112). -/
def State.putKey (s : State) (n phi e d : Nat) : State :=
  { s with keyN := BitVec.ofNat 64 n, keyPhi := BitVec.ofNat 64 phi, keyE := BitVec.ofNat 64 e, keyD := BitVec.ofNat 64 d }

/-- Sets STATUS.KEY_VALID (44_rsa.md R600). -/
def State.validateKey (s : State) : State := { s with keyValid := true }

/-- `KeyFail()` (44_rsa.md R600): zeroes the four KEY registers; KEY_VALID stays as acceptance left it. -/
def State.failKey (s : State) : State := s.putKey 0 0 0 0

/-- Writes GRID (10_state.md R109). -/
def State.putGrid (s : State) (rows cols : Nat) : State :=
  { s with nrows := BitVec.ofNat 16 rows, ncols := BitVec.ofNat 16 cols }

/-- `raise e` (00_scope.md R16; 60_exceptions.md R702): nothing of the success path is written, and the completion
records the code. There is no trap entry and nothing to return to (60_exceptions.md R703, R706). -/
def State.raise (s : State) (e : CmdError) : State := s.complete (some e)

/-- A command that runs its rule to the end (40_codec_and_command.md R404). -/
def State.finish (s : State) : State := s.complete none

/-- The engine's step on a word that is no command (30_encoding.md R302; 40_codec_and_command.md R404). -/
def State.completeIllegal (s : State) : State := s.raise .illegalCommand

/-- Soft reset (70_reset_and_hazards.md R801): every register at its reset value, the pending command discarded, the
buffers kept. -/
def State.softReset (s : State) : State :=
  { State.reset with mem := s.mem, turns := s.turns, resp := s.resp, powerEpoch := s.powerEpoch }

/-- Power-on reset (R800): every register at its reset value and no buffer byte holding a value. The coming turns are
the environment's and stay; the free power-on bytes are new (log 10). -/
def State.powerOnReset (s : State) : State :=
  { State.reset with turns := s.turns, powerEpoch := s.powerEpoch + 1 }

end Sys2Proof.Machine
end

