-- ==== Sys2Proof/Machine/Bus.lean ====
section
/-! DEFINITION. The host's bus accesses: address decode, permission, reads and writes (20_memory.md R200 to R208). -/

namespace Sys2Proof.Machine

/-- The window offset of a bus address; `none` outside `BASE` .. `BASE` + 0x1FFF (R200, R201). -/
def offsetOf (addr : Nat) : Option Nat :=
  if Config.base ≤ addr ∧ addr < Config.base + Config.windowSize then some (addr - Config.base) else none

/-- The 32-bit register of word number `k` (10_state.md section 2). -/
def reg32At : Nat → Reg32
  | 0 => .id
  | 1 => .ctrl
  | 2 => .cmd
  | 3 => .status
  | 4 => .err
  | 5 => .inLen
  | 6 => .keyLen
  | 7 => .outLen
  | _ => .grid

/-- The 64-bit register number `k` from offset 0x040 (10_state.md section 2). -/
def reg64At : Nat → Reg64
  | 0 => .op0
  | 1 => .op1
  | 2 => .op2
  | 3 => .result
  | 4 => .keyN
  | 5 => .keyPhi
  | 6 => .keyE
  | _ => .keyD

/-- Address decode of a window offset (R201). Inside a register's four bytes only the word-aligned offset can be
reached (R203). -/
def targetOf (off : Nat) : Target :=
  if off < 0x024 then .reg32 (reg32At (off / 4))
  else if off < 0x040 then .reserved
  else if off < 0x080 then .half (reg64At ((off - 0x040) / 8)) (off / 4 % 2 == 1)
  else if off < 0x400 then .reserved
  else if off < 0x440 then .buffer .keyBuf
  else if off < 0x480 then .buffer .rankBuf
  else if off < 0x800 then .reserved
  else if off < 0xC00 then .buffer .inBuf
  else if off < 0x1000 then .reserved
  else if off < 0x1800 then .buffer .outBuf
  else .reserved

/-- Whether an offset lies in one of the four buffers. -/
def inBuffer (off : Nat) : Bool :=
  match targetOf off with
  | .buffer _ => true
  | .reg32 _ | .half _ _ | .reserved => false

/-- The accesses that are no bus error (R202, R203). -/
def permitted (op : BusOp) (off : Nat) : Bool :=
  match op with
  | .rd32 | .wr32 _ => off % 4 == 0
  | .rd8 | .wr8 _ => inBuffer off
  | .otherSize _ _ => false

/-- Whether the access reads. -/
def BusOp.isRead : BusOp → Bool
  | .rd8 | .rd32 => true
  | .wr8 _ | .wr32 _ => false
  | .otherSize r _ => r

/-- The bus error response: data 0 on a read (R205). -/
def errorResponse (op : BusOp) : Response := if op.isRead then .readError 0 else .writeError

/-- A 32-bit register as read (10_state.md R101 to R109). -/
def State.read32 (s : State) : Reg32 → Word32
  | .id => Config.idValue
  | .ctrl => s.ctrlWord
  | .cmd => s.cmd
  | .status => s.statusWord
  | .err => s.errWord
  | .inLen => s.inLen
  | .keyLen => s.keyLen
  | .outLen => s.outLen
  | .grid => s.gridWord

/-- Four buffer bytes as a little-endian word (R204). -/
def State.bufferWord (s : State) (off : Nat) : Word32 :=
  s.hostByte (off + 3) ++ s.hostByte (off + 2) ++ s.hostByte (off + 1) ++ s.hostByte off

/-- The data of a permitted 32-bit read; reserved offsets read 0 (R207). -/
def State.readWord (s : State) (off : Nat) : Word32 :=
  match targetOf off with
  | .reg32 r => s.read32 r
  | .half r high => getHalf (s.get64 r) high
  | .buffer _ => s.bufferWord off
  | .reserved => 0

/-- A write of a target that is write-protected while busy (R206): ignored, setting WERR, if BUSY = 1. -/
def State.guarded (s stored : State) : State := if s.busy then s.refuseWrite else stored

/-- The four bytes of a word, least significant first (R204). -/
def wordBytes (d : Word32) : List Byte :=
  [d.extractLsb' 0 8, d.extractLsb' 8 8, d.extractLsb' 16 8, d.extractLsb' 24 8]

/-- A host write of CTRL: SRST resets, otherwise IE is stored (10_state.md R102, 70_reset_and_hazards.md R801). -/
def State.writeCtrl (s : State) (d : Word32) : State :=
  if d.getLsbD 1 then s.softReset else { s with ie := d.getLsbD 0 }

/-- A host write of CMD: acceptance, or WERR if busy (40_codec_and_command.md R401). -/
def State.issue (s : State) (w : Word32) : State := s.guarded (s.accept w)

/-- A write of a 32-bit register (R206, R207, R208). -/
def State.write32 (s : State) (r : Reg32) (d : Word32) : State :=
  match r with
  | .ctrl => s.writeCtrl d
  | .cmd => s.issue d
  | .status => s.writeStatus d
  | .inLen => s.guarded { s with inLen := d }
  | .keyLen => s.guarded { s with keyLen := d }
  | .id | .err | .outLen | .grid => s

/-- A write of one half of a 64-bit register (R206, R207). -/
def State.writeHalf (s : State) (r : Reg64) (high : Bool) (d : Word32) : State :=
  match r with
  | .op0 | .op1 | .op2 => s.guarded (s.setHalf64 r high d)
  | .result | .keyN | .keyPhi | .keyE | .keyD => s

/-- A write of bytes of a buffer, from an offset up (R206, R207): RANK_BUF and OUT_BUF ignore it. -/
def State.writeBuffer (s : State) (b : Buf) (off : Nat) (bs : List Byte) : State :=
  match b with
  | .inBuf | .keyBuf => s.guarded { s with mem := Memory.writeRun s.mem off bs }
  | .rankBuf | .outBuf => s

/-- A permitted 32-bit write; reserved offsets ignore it (R207). -/
def State.writeWord (s : State) (off : Nat) (d : Word32) : State :=
  match targetOf off with
  | .reg32 r => s.write32 r d
  | .half r high => s.writeHalf r high d
  | .buffer b => s.writeBuffer b off (wordBytes d)
  | .reserved => s

/-- A permitted 8-bit write. -/
def State.writeByte (s : State) (off : Nat) (d : Byte) : State :=
  match targetOf off with
  | .buffer b => s.writeBuffer b off [d]
  | .reg32 _ | .half _ _ | .reserved => s

/-- One access at a window offset: the new state and the response (R202 to R208). A forbidden access changes nothing
(R205). -/
def windowAccess (s : State) (off : Nat) (op : BusOp) : State × Response :=
  if permitted op off then
    match op with
    | .rd8 => (s, .data8 (s.hostByte off))
    | .rd32 => (s, .data32 (s.readWord off))
    | .wr8 d => (s.writeByte off d, .written)
    | .wr32 d => (s.writeWord off d, .written)
    | .otherSize r bits => (s, errorResponse (.otherSize r bits))
  else (s, errorResponse op)

/-- One access at a bus address. The block never responds outside its window (R201; log 7). -/
def busAccess (s : State) (a : BusAccess) : State × Response :=
  match offsetOf a.addr with
  | none => (s, .none)
  | some off => windowAccess s off a.op

/-- Whether a response signals a bus error. -/
def Response.isError : Response → Bool
  | .readError _ | .writeError => true
  | .none | .data8 _ | .data32 _ | .written => false

/-- The host's turn: one access; a bus error is a host fault (93_implementation_defined.md I2; log 3). -/
def hostTurn (s : State) (a : BusAccess) : Host.Outcome State Fault Refusal :=
  match busAccess s a with
  | (t, r) => if r.isError then .fault .hostBusError else .next { t with resp := r }

end Sys2Proof.Machine
end

