-- ==== Sys2Proof/Machine/Arith.lean ====
section
/-! DEFINITION. The number-theory primitives, exact on integers (00_scope.md R13; 41_modular_arithmetic.md R450 to R454,
R457). Each loop of the spec is recursion on a step bound that it never reaches (DEDUCED, log 12). -/

namespace Sys2Proof.Machine

/-- `normMod(n, m)` for m > 0: the r with 0 ≤ r < m and m | (n − r) (00_scope.md R13). -/
def normMod (n : Int) (m : Nat) : Nat := (n % (m : Int)).toNat

/-- `Gcd(a, b)` (41_modular_arithmetic.md R451; any gcd algorithm gives the same value,
93_implementation_defined.md G3). -/
def gcdOf (a b : Nat) : Nat := Nat.gcd a b

/-- `ExtGcd(a, b)` (R452), with at most `fuel` calls. -/
def extGcdWithin : (fuel a b : Nat) → Nat × Int × Int
  | 0, a, _ => (a, 1, 0)
  | fuel + 1, a, b =>
    if b = 0 then (a, 1, 0)
    else
      match extGcdWithin fuel b (a % b) with
      | (g, x1, y1) => (g, y1, x1 - ((a / b : Nat) : Int) * y1)

/-- `ExtGcd(a, b)` (R452); the second argument falls at each call, so `b + 1` calls are enough. -/
def extGcd (a b : Nat) : Nat × Int × Int := extGcdWithin (b + 1) a b

/-- `ModInvExt(a, m)` for m ≥ 1 (R453); `none` is NoInverseExists. -/
def modInvExt (a m : Nat) : Option Nat :=
  match extGcd a m with
  | (g, x, _) => if g = 1 then some (normMod x m) else none

/-- The loop of `ModPow` (R454), at most `fuel` times round. -/
def modPowLoop (m : Nat) : (fuel r b e : Nat) → Nat
  | 0, r, _, _ => r
  | fuel + 1, r, b, e =>
    if e = 0 then r
    else modPowLoop m fuel (if e % 2 = 1 then r * b % m else r) (b * b % m) (e / 2)

/-- `ModPow(b, e, m)` for m ≥ 1 (R454); the exponent is halved at each round, so `e` rounds are enough. -/
def modPow (b e m : Nat) : Nat := modPowLoop m e (1 % m) (b % m) e

/-- The trial-division loop of `IsPrime` (R457) from divisor `d`, at most `fuel` times round. -/
def isPrimeLoop (n : Nat) : (fuel d : Nat) → Bool
  | 0, _ => true
  | fuel + 1, d =>
    if d * d ≤ n then
      if n % d = 0 then false else isPrimeLoop n fuel (d + 1)
    else true

/-- `IsPrime(n)` (R457); the divisor stays below `n`, so `n` rounds are enough. -/
def isPrime (n : Nat) : Bool := if n < 2 then false else isPrimeLoop n n 2

/-- The search loop of RSAKEYGEN for the first exponent coprime with `phi` (44_rsa.md R600), at most `fuel` times round. -/
def publicExponentLoop (phi : Nat) : (fuel e : Nat) → Nat
  | 0, e => e
  | fuel + 1, e => if gcdOf e phi = 1 then e else publicExponentLoop phi fuel (e + 1)

/-- The first integer ≥ 2 coprime with `phi` (44_rsa.md R600): the loop runs at most `phi` times. -/
def publicExponent (phi : Nat) : Nat := publicExponentLoop phi phi 2

end Sys2Proof.Machine
end

