-- ==== Sys2Proof/Machine/Codec.lean ====
section
/-! DEFINITION. The Alphabet Codec (40_codec_and_command.md R410, R411, R414). -/

namespace Sys2Proof.Machine

/-- An integer as a Letter, reduced mod 26 (00_scope.md R13, R17). -/
def toLetter (v : Int) : Letter := Fin.ofNat 26 (normMod v 26)

/-- The Letter of one byte of text, or `none` for a byte that `Filter` drops (R410). -/
def byteLetter (c : Byte) : Option Letter :=
  if 0x41 ≤ c.toNat ∧ c.toNat ≤ 0x5A then some (Fin.ofNat 26 (c.toNat - 0x41))
  else if 0x61 ≤ c.toNat ∧ c.toNat ≤ 0x7A then some (Fin.ofNat 26 (c.toNat - 0x61))
  else none

/-- `Filter` (R410): the Letters of the text, in order. -/
def filterText (bs : List Byte) : List Letter := bs.filterMap byteLetter

/-- `Letter2Byte(v)` (R411), for any integer. -/
def letter2Byte (v : Int) : Byte := BitVec.ofNat 8 (0x41 + normMod v 26)

/-- The byte of a Letter. -/
def letterByte (l : Letter) : Byte := letter2Byte (l.val : Int)

/-- `Filter(IN_BUF, u(x[IN_LEN]))`, or `none` if it reads a byte that holds no value. -/
def State.message (s : State) (inCount : Nat) : Option (List Letter) :=
  match s.bytes .inBuf inCount with
  | none => none
  | some bs => some (filterText bs)

/-- `Filter(KEY_BUF, u(x[KEY_LEN]))`, or `none` if it reads a byte that holds no value. -/
def State.keyword (s : State) (keyCount : Nat) : Option (List Letter) :=
  match s.bytes .keyBuf keyCount with
  | none => none
  | some bs => some (filterText bs)

/-- `WriteOut(t)` (R414): OUT_BUF[0 .. |t|-1] and OUT_LEN. -/
def State.writeOut (s : State) (t : List Letter) : State :=
  { s.putBytes .outBuf (t.map letterByte) with outLen := BitVec.ofNat 32 t.length }

end Sys2Proof.Machine
end

