-- ==== Sys2Proof/Machine/Operands.lean ====
section
/-! DEFINITION. How a command reads its operands (30_encoding.md R305, R306; 00_scope.md R12). -/

namespace Sys2Proof.Machine

/-- `u(v)`: the unsigned value of a pattern (00_scope.md R12). -/
def u {n : Nat} (v : BitVec n) : Nat := v.toNat

/-- `s64(v)`: the two's-complement value of a 64-bit pattern (R12). -/
def s64 (v : Word64) : Int := if v.toNat < 2 ^ 63 then (v.toNat : Int) else (v.toNat : Int) - 2 ^ 64

/-- The first operand as an unsigned number: base, a, n, p, m or c (R305). -/
def State.u0 (s : State) : Nat := u s.op0

/-- The second operand as an unsigned number: exponent, modulus of MODINV, q, e or d (R305). -/
def State.u1 (s : State) : Nat := u s.op1

/-- The third operand as an unsigned number: the modulus (R305). -/
def State.u2 (s : State) : Nat := u s.op2

/-- The affine key's `a`, signed (R305, R306). -/
def State.keyA (s : State) : Int := s64 s.op0

/-- The affine key's `b`, signed (R305, R306). -/
def State.keyB (s : State) : Int := s64 s.op1

/-- `u(x[IN_LEN])` (R306). -/
def State.inCount (s : State) : Nat := u s.inLen

/-- `u(x[KEY_LEN])` (R306). -/
def State.keyCount (s : State) : Nat := u s.keyLen

/-- The length check of AFFENC and AFFDEC (40_codec_and_command.md R412): KEY_LEN is not checked. -/
def State.inLenBad (s : State) : Bool := decide (Config.inMax < s.inCount)

/-- The length check of COLENC and COLDEC (R412). -/
def State.lengthsBad (s : State) : Bool := s.inLenBad || decide (Config.keyMax < s.keyCount)

end Sys2Proof.Machine
end

