-- ==== Sys2Proof/Machine/Affine.lean ====
section
/-! DEFINITION. AFFENC and AFFDEC (42_affine.md R500 to R503). -/

namespace Sys2Proof.Machine

/-- `UNITS` (R500): the check is membership of the integer itself, not of its residue. -/
def affineUnits : List Int := [1, 3, 5, 7, 9, 11, 15, 17, 19, 21, 23, 25]

/-- `Inv26(a)` (R501): the first x in 1 .. 25 with (a·x) mod 26 = 1. For a unit the scan succeeds, so the 0 is never
used (93_implementation_defined.md I7). -/
def inv26 (a : Int) : Int :=
  match (List.range' 1 25).find? (fun x => normMod (a * (x : Int)) 26 == 1) with
  | some x => (x : Int)
  | none => 0

/-- One Letter of AFFENC: (a·n + b) mod 26, exact (R502). -/
def affineEncode (a b : Int) (n : Letter) : Letter := toLetter (a * (n.val : Int) + b)

/-- One Letter of AFFDEC: Inv26(a)·(n − b) mod 26, exact (R503). -/
def affineDecode (a b : Int) (n : Letter) : Letter := toLetter (inv26 a * ((n.val : Int) - b))

/-- What AFFENC and AFFDEC share: the three checks in their order (60_exceptions.md R704), then the message mapped
Letter by Letter. -/
def affineCommand (f : Int → Int → Letter → Letter) (s : State) : Host.Outcome State Fault Refusal :=
  if s.inLenBad then .next (s.raise .invalidNumber)
  else if s.keyA ∉ affineUnits then .next (s.raise .invalidKey)
  else
    match s.message s.inCount with
    | none => .fault (.unwrittenByte .inBuf)
    | some [] => .next (s.raise .emptyInput)
    | some (l :: ls) => .next (s.writeOut ((l :: ls).map (f s.keyA s.keyB))).finish

/-- AFFENC (R502). -/
def execAffenc (s : State) : Host.Outcome State Fault Refusal := affineCommand affineEncode s

/-- AFFDEC (R503). -/
def execAffdec (s : State) : Host.Outcome State Fault Refusal := affineCommand affineDecode s

end Sys2Proof.Machine
end

