-- ==== Sys2Proof/Machine/Modular.lean ====
section
/-! DEFINITION. MODEXP, MODINV and ISPRIME (41_modular_arithmetic.md R455, R456, R457). A meaning is the engine's whole
step: `Exec` and the completion (40_codec_and_command.md R402). -/

namespace Sys2Proof.Machine

/-- MODEXP (R455). -/
def execModexp (s : State) : Host.Outcome State Fault Refusal :=
  if s.u2 = 0 then .next (s.raise .invalidNumber)
  else .next (s.putResult (modPow s.u0 s.u1 s.u2)).finish

/-- MODINV (R456). -/
def execModinv (s : State) : Host.Outcome State Fault Refusal :=
  if s.u1 = 0 then .next (s.raise .invalidNumber)
  else
    match modInvExt s.u0 s.u1 with
    | none => .next (s.raise .noInverseExists)
    | some r => .next (s.putResult r).finish

/-- ISPRIME (R457). -/
def execIsprime (s : State) : Host.Outcome State Fault Refusal :=
  .next (s.putResult (if isPrime s.u0 then 1 else 0)).finish

end Sys2Proof.Machine
end

