-- ==== Sys2Proof/Machine/Rsa.lean ====
section
/-! DEFINITION. RSAKEYGEN, RSAENC and RSADEC (44_rsa.md R600, R601, R602). -/

namespace Sys2Proof.Machine

/-- The private exponent `ModInvExt(e, phi)`. It cannot raise (R600): `e` is coprime with `phi`, so the 0 is never used. -/
def privateExponent (e phi : Nat) : Nat := (modInvExt e phi).getD 0

/-- RSAKEYGEN (R600). Both errors zero the KEY registers, the one exception to 60_exceptions.md R702. -/
def execRsakeygen (s : State) : Host.Outcome State Fault Refusal :=
  if isPrime s.u0 = false ∨ isPrime s.u1 = false ∨ s.u0 = s.u1 then .next (s.failKey.raise .invalidKey)
  else if 2 ^ 64 ≤ s.u0 * s.u1 then .next (s.failKey.raise .invalidNumber)
  else
    let phi := (s.u0 - 1) * (s.u1 - 1)
    let e := publicExponent phi
    .next (s.putKey (s.u0 * s.u1) phi e (privateExponent e phi)).validateKey.finish

/-- RSAENC (R601): explicit operands; the KEY registers are not read (90_conflicts.md C3). -/
def execRsaenc (s : State) : Host.Outcome State Fault Refusal :=
  if s.u2 ≤ s.u0 then .next (s.raise .messageTooLarge)
  else .next (s.putResult (modPow s.u0 s.u1 s.u2)).finish

/-- RSADEC (R602): explicit operands; a ciphertext `c ≥ n` is reduced, not refused (90_conflicts.md C8). -/
def execRsadec (s : State) : Host.Outcome State Fault Refusal :=
  if s.u2 = 0 then .next (s.raise .invalidNumber)
  else .next (s.putResult (modPow s.u0 s.u1 s.u2)).finish

end Sys2Proof.Machine
end

