-- ==== Sys2Proof/Machine/Transposition.lean ====
section
/-! DEFINITION. COLENC and COLDEC (43_transposition.md R550, R551, R552). -/

namespace Sys2Proof.Machine

/-- The filler letter 'X' (00_scope.md R17). -/
def filler : Letter := 23

/-- The key letter of a column. -/
def keyLetter (K : List Letter) (c : Nat) : Nat := (K.getD c 0).val

/-- The pair order of R550: by letter value, then by original index. -/
def columnBefore (K : List Letter) (c d : Nat) : Bool :=
  decide (keyLetter K c < keyLetter K d) || (decide (keyLetter K c = keyLetter K d) && decide (c < d))

/-- Inserts a column into a list of columns sorted by `columnBefore`. -/
def insertColumn (K : List Letter) (c : Nat) : List Nat → List Nat
  | [] => [c]
  | d :: ds => if columnBefore K c d then c :: d :: ds else d :: insertColumn K c ds

/-- `order` of ColumnOrder(K) (R550): the columns sorted by (letter value, index). -/
def columnOrder (K : List Letter) : List Nat := (List.range K.length).foldr (insertColumn K) []

/-- `rank[c]` (R550): the position of column `c` in the order. -/
def columnRank (K : List Letter) (c : Nat) : Nat := (columnOrder K).idxOf c

/-- `rank[0 .. L-1]` as the bytes written to RANK_BUF. -/
def rankBytes (K : List Letter) : List Byte := (List.range K.length).map (fun c => BitVec.ofNat 8 (columnRank K c))

/-- `Q` of R551: the message padded with 'X' to a multiple of L. -/
def padMessage (L : Nat) (P : List Letter) : List Letter := P ++ List.replicate ((L - P.length % L) % L) filler

/-- The output of COLENC (R551): the columns of `Q` in rank order, each from top to bottom. -/
def transposeEncode (K P : List Letter) : List Letter :=
  let Q := padMessage K.length P
  let R := Q.length / K.length
  (columnOrder K).flatMap (fun c => (List.range R).map (fun row => Q.getD (row * K.length + c) filler))

/-- The number of rows, ceil(N / L) (R551, R552). -/
def gridRows (L N : Nat) : Nat := (N + L - 1) / L

/-- `len[c]` (R552): the first N mod L columns, in key order, have one Letter more. -/
def columnLength (L N c : Nat) : Nat := N / L + (if c < N % L then 1 else 0)

/-- Cuts the ciphertext into columns, reading them in the given order (R552). -/
def cutColumns (len : Nat → Nat) : (order : List Nat) → (C : List Letter) → List (Nat × List Letter)
  | [], _ => []
  | c :: cs, C => (c, C.take (len c)) :: cutColumns len cs (C.drop (len c))

/-- `col[c]`. -/
def columnOf (cols : List (Nat × List Letter)) (c : Nat) : List Letter :=
  match cols.find? (fun p => p.1 == c) with
  | some p => p.2
  | none => []

/-- `T` of R552 before the fillers are stripped: the rows, left to right. -/
def rebuildRows (K C : List Letter) : List Letter :=
  let L := K.length
  let len := columnLength L C.length
  let cols := cutColumns len (columnOrder K) C
  (List.range (gridRows L C.length)).flatMap
    (fun row => (List.range L).filterMap (fun c => if row < len c then (columnOf cols c)[row]? else none))

/-- Removes every trailing 'X' (R552, 92_eei_decisions.md D19). -/
def stripFiller (T : List Letter) : List Letter := (T.reverse.dropWhile (fun l => l == filler)).reverse

/-- The output of COLDEC (R552). -/
def transposeDecode (K C : List Letter) : List Letter := stripFiller (rebuildRows K C)

/-- What COLENC and COLDEC share: the three checks in their order (60_exceptions.md R704), then the output, GRID and
RANK_BUF. -/
def columnCommand (f : List Letter → List Letter → List Letter) (s : State) : Host.Outcome State Fault Refusal :=
  if s.lengthsBad then .next (s.raise .invalidNumber)
  else
    match s.keyword s.keyCount with
    | none => .fault (.unwrittenByte .keyBuf)
    | some K =>
      if K.length < 2 then .next (s.raise .invalidKey)
      else
        match s.message s.inCount with
        | none => .fault (.unwrittenByte .inBuf)
        | some [] => .next (s.raise .emptyInput)
        | some (l :: ls) =>
          .next ((((s.writeOut (f K (l :: ls))).putGrid (gridRows K.length (l :: ls).length) K.length).putBytes .rankBuf
            (rankBytes K)).finish)

/-- COLENC (R551). -/
def execColenc (s : State) : Host.Outcome State Fault Refusal := columnCommand transposeEncode s

/-- COLDEC (R552). -/
def execColdec (s : State) : Host.Outcome State Fault Refusal := columnCommand transposeDecode s

end Sys2Proof.Machine
end

