-- ==== Sys2Proof/Machine/Dispatch.lean ====
section
/-! DEFINITION. The dispatch of 40_codec_and_command.md R404: one meaning per command. -/

namespace Sys2Proof.Machine

/-- The engine's whole step on a legal command (R402, R404). -/
def exec (i : Instr) (s : State) : Host.Outcome State Fault Refusal :=
  match i with
  | .modexp => Sys2Proof.Machine.execModexp s
  | .modinv => Sys2Proof.Machine.execModinv s
  | .isprime => Sys2Proof.Machine.execIsprime s
  | .rsakeygen => Sys2Proof.Machine.execRsakeygen s
  | .rsaenc => Sys2Proof.Machine.execRsaenc s
  | .rsadec => Sys2Proof.Machine.execRsadec s
  | .affenc => Sys2Proof.Machine.execAffenc s
  | .affdec => Sys2Proof.Machine.execAffdec s
  | .colenc => Sys2Proof.Machine.execColenc s
  | .coldec => Sys2Proof.Machine.execColdec s

end Sys2Proof.Machine
end

