-- ==== Sys2Proof/Machine/Step.lean ====
section
/-! DEFINITION. One step of the machine: the next turn of the total order of host accesses, engine steps and power-on
resets (20_memory.md R212; 40_codec_and_command.md R400, R402). -/

namespace Sys2Proof.Machine

/-- The engine's step on the pending command word (40_codec_and_command.md R402, R404). -/
def engineStep (s : State) : Host.Outcome State Fault Refusal :=
  match decode s.cmd with
  | .ok i => exec i s
  | .error _ => .next s.completeIllegal

/-- The engine's turn: it steps exactly when BUSY = 1 (R402). -/
def engineTurn (s : State) : Host.Outcome State Fault Refusal :=
  if s.busy then engineStep s else .next s

/-- One step: the next turn of `turns`. When no turn is left the engine steps if it is enabled (92_eei_decisions.md D35;
log 2), and an idle block stays as it is (log 9). -/
def step (s : State) : Host.Outcome State Fault Refusal :=
  match s.turns with
  | [] => engineTurn s
  | .engine :: ts => engineTurn { s with turns := ts }
  | .host a :: ts => hostTurn { s with turns := ts } a
  | .powerOn :: ts => .next (State.powerOnReset { s with turns := ts })

/-- `s` with the word accepted as the pending command (40_codec_and_command.md R401) and the engine's turn next, so that
the next step runs it (log 13). -/
def State.withFetchWord (s : State) (nbits w : Nat) : State :=
  State.accept { s with turns := .engine :: s.turns } (BitVec.ofNat 32 (w % 2 ^ nbits))

end Sys2Proof.Machine
end

