-- ==== Sys2Proof/Machine/HostScript.lean ====
section
/-! DEFINITION. Host scripts (30_encoding.md R307, R308, R309): the statements, the offset symbols, the exact expansions of
the pseudo-instructions, and a host that runs a script against the block. Variables and branches are the host's, no state
of the block (R307, 40_codec_and_command.md R400). -/

namespace Sys2Proof.Machine

/-- The offset symbol of a 32-bit register (R308). -/
def Reg32.offset : Reg32 → Nat
  | .id => 0x000
  | .ctrl => 0x004
  | .cmd => 0x008
  | .status => 0x00C
  | .err => 0x010
  | .inLen => 0x014
  | .keyLen => 0x018
  | .outLen => 0x01C
  | .grid => 0x020

/-- The offset symbol of a 64-bit register (R308). -/
def Reg64.offset : Reg64 → Nat
  | .op0 => 0x040
  | .op1 => 0x048
  | .op2 => 0x050
  | .result => 0x058
  | .keyN => 0x060
  | .keyPhi => 0x068
  | .keyE => 0x070
  | .keyD => 0x078

/-- The length register a `SETLEN` names (R309). -/
inductive LenReg where
  | inLen | keyLen
deriving DecidableEq, Repr

/-- The 32-bit register behind a `SETLEN` name. -/
def LenReg.reg : LenReg → Reg32
  | .inLen => .inLen
  | .keyLen => .keyLen

/-- A host variable, or a half of a 64-bit one: `$v`, `$v.lo`, `$v.hi` (R307). -/
inductive HostVar where
  | whole (v : String)
  | lo (v : String)
  | hi (v : String)
deriving DecidableEq, Repr

/-- `<data32>` or `<data8>`: a number or a host variable (R307). -/
inductive HostData where
  | num (d : Word32)
  | var (v : HostVar)
deriving DecidableEq, Repr

/-- `<expr>` of a branch (R307); a variable, and so an immediate, may have 64 bits. -/
inductive HostExpr where
  | val (v : HostVar)
  | mask (v : HostVar) (imm : Word64)
  | equals (v : HostVar) (imm : Word64)
deriving DecidableEq, Repr

/-- A label: one of the script's own, or the fresh `Lk` of a `WAIT` (R309). -/
inductive HostLabel where
  | named (l : String)
  | fresh (k : Nat)
deriving DecidableEq, Repr

/-- The statements of a host script (R307). -/
inductive HostStmt where
  | wr32 (off : Nat) (d : HostData)
  | wr8 (off : Nat) (d : HostData)
  | rd32 (off : Nat) (v : HostVar)
  | rd8 (off : Nat) (v : HostVar)
  | label (l : HostLabel)
  | bz (e : HostExpr) (l : HostLabel)
  | bnz (e : HostExpr) (l : HostLabel)
  | halt
deriving DecidableEq, Repr

/-- The value `SET64` stores: an integer, or a 64-bit host variable (R309). -/
inductive Set64Value where
  | imm (z : Int)
  | var (v : String)
deriving DecidableEq, Repr

/-- A line of a script: a statement or a pseudo-instruction (R309). -/
inductive HostLine where
  | stmt (st : HostStmt)
  | issue (i : Instr)
  | set64 (r : Reg64) (v : Set64Value)
  | get64 (r : Reg64) (v : String)
  | puts (b : Buf) (text : List Byte)
  | setlen (l : LenReg) (text : List Byte)
  | wait
  | ack
  | run (i : Instr)
deriving DecidableEq, Repr

/-- The status variable `$s` that `WAIT` reads into (R309). -/
def statusVar : HostVar := .whole "s"

/-- `ISSUE` (R309). -/
def expandIssue (i : Instr) : List HostStmt := [.wr32 Reg32.cmd.offset (.num (encode i))]

/-- `WAIT` with the fresh label number `k` (R309). -/
def expandWait (k : Nat) : List HostStmt :=
  [.label (.fresh k), .rd32 Reg32.status.offset statusVar, .bz (.mask statusVar 0x2) (.fresh k)]

/-- `SET64` (R309); an integer is first taken mod 2^64. -/
def expandSet64 (r : Reg64) : Set64Value → List HostStmt
  | .imm z =>
    [.wr32 r.offset (.num (getHalf (BitVec.ofInt 64 z) false)), .wr32 (r.offset + 4) (.num (getHalf (BitVec.ofInt 64 z) true))]
  | .var v => [.wr32 r.offset (.var (.lo v)), .wr32 (r.offset + 4) (.var (.hi v))]

/-- `PUTS` from offset `off` up (R309). -/
def expandPuts : (off : Nat) → List Byte → List HostStmt
  | _, [] => []
  | off, b :: bs => .wr8 off (.num (b.setWidth 32)) :: expandPuts (off + 1) bs

/-- The expansion of one line, with `k` the next fresh label number (R309). -/
def expandLine (k : Nat) : HostLine → List HostStmt
  | .stmt st => [st]
  | .issue i => expandIssue i
  | .set64 r v => expandSet64 r v
  | .get64 r v => [.rd32 r.offset (.lo v), .rd32 (r.offset + 4) (.hi v)]
  | .puts b text => expandPuts b.start text
  | .setlen l text => [.wr32 l.reg.offset (.num (BitVec.ofNat 32 text.length))]
  | .wait => expandWait k
  | .ack => [.wr32 Reg32.status.offset (.num 0x00000002)]
  | .run i => expandIssue i ++ expandWait k

/-- The expansion of a script; every line has its own fresh label number. -/
def expandScript : (k : Nat) → List HostLine → List HostStmt
  | _, [] => []
  | k, l :: ls => expandLine k l ++ expandScript (k + 1) ls

/-- What a host variable holds: a 32-bit word, or the halves of a 64-bit value read so far (R307, R309). -/
inductive HostValue where
  | word (d : Word32)
  | halves (lo hi : Option Word32)
deriving DecidableEq, Repr

/-- The host's variables by name, one entry a read; the newest entry of a name stands first and is what it holds. -/
abbrev HostVars := List (String × HostValue)

/-- A host running a script against the block. -/
structure HostSystem where
  block  : State
  script : List HostStmt
  /-- The index of the next statement; at or past the end the script has ended. -/
  at_    : Nat
  vars   : HostVars
deriving DecidableEq, Repr

/-- Why a host script stops. -/
inductive HostStop where
  /-- The block's step faulted. Safe. -/
  | block (f : Fault)
  /-- The script uses a variable, or a half, that it has not read; R307 gives it no value (log 15). Safe. -/
  | unreadVariable (v : HostVar)
  /-- The script branches to a label it does not hold; R307 gives no meaning (log 15). Safe. -/
  | noSuchLabel (l : HostLabel)
deriving DecidableEq, Repr

/-- The name of a host variable. -/
def HostVar.name : HostVar → String
  | .whole v | .lo v | .hi v => v

/-- The low half a variable holds. -/
def HostValue.lo? : HostValue → Option Word32
  | .word _ => none
  | .halves lo _ => lo

/-- The high half a variable holds. -/
def HostValue.hi? : HostValue → Option Word32
  | .word _ => none
  | .halves _ hi => hi

/-- The whole value, in 64 bits: a 32-bit word zero-extended, or `{$v.hi, $v.lo}` once both halves are read (R309). -/
def HostValue.whole? : HostValue → Option Word64
  | .word d => some (d.setWidth 64)
  | .halves (some lo) (some hi) => some (hi ++ lo)
  | .halves (some _) none | .halves none _ => none

/-- The part of a held value that `$v`, `$v.lo` or `$v.hi` names (R307). -/
def HostValue.part (x : HostValue) : HostVar → Option Word64
  | .whole _ => x.whole?
  | .lo _ => x.lo?.map (·.setWidth 64)
  | .hi _ => x.hi?.map (·.setWidth 64)

/-- What a variable holds after the word `d` is read into it or into one half: a half joins the other half held. -/
def HostValue.store (old : Option HostValue) (d : Word32) : HostVar → HostValue
  | .whole _ => .word d
  | .lo _ => .halves (some d) (old.bind HostValue.hi?)
  | .hi _ => .halves (old.bind HostValue.lo?) (some d)

/-- What the named variable holds. -/
def HostVars.held (vs : HostVars) (v : String) : Option HostValue := (vs.find? (fun p => p.1 == v)).map (·.2)

/-- The value of `$v`, `$v.lo` or `$v.hi`, in 64 bits. -/
def HostVars.value (vs : HostVars) (v : HostVar) : Option Word64 := (HostVars.held vs v.name).bind (fun x => x.part v)

/-- The variables after the word `d` was read into `v`. -/
def HostVars.readInto (vs : HostVars) (v : HostVar) (d : Word32) : HostVars :=
  (v.name, HostValue.store (HostVars.held vs v.name) d v) :: vs

/-- The value of a host variable. -/
def HostSystem.varValue (h : HostSystem) (v : HostVar) : Option Word64 := HostVars.value h.vars v

/-- The value of a datum, in 64 bits, or the variable that has none. -/
def HostSystem.dataValue (h : HostSystem) : HostData → Except HostVar Word64
  | .num d => .ok (d.setWidth 64)
  | .var v =>
    match h.varValue v with
    | some x => .ok x
    | none => .error v

/-- The variable of an expression. -/
def HostExpr.variable : HostExpr → HostVar
  | .val v | .mask v _ | .equals v _ => v

/-- The value of a branch expression; `==` gives 1 or 0 (DESIGN CHOICE, log 15). -/
def HostExpr.value (e : HostExpr) (x : Word64) : Word64 :=
  match e with
  | .val _ => x
  | .mask _ imm => x &&& imm
  | .equals _ imm => if x = imm then 1 else 0

/-- Where a label stands: its first place, if the script holds it twice (R307 is silent on that; DESIGN CHOICE, log 15). -/
def labelIndex (script : List HostStmt) (l : HostLabel) : Option Nat := script.findIdx? (fun st => st == .label l)

/-- The data a response carries, as a word; a byte is zero-extended (log 15), a read error carries 0 (20_memory.md R205).
No response at all carries none (R201). -/
def Response.data : Response → Option Word32
  | .data8 d => some (d.setWidth 32)
  | .data32 d => some d
  | .readError d => some (BitVec.ofNat 32 d)
  | .none | .written | .writeError => Option.none

/-- What the platform returns to the script's next read, at an address where the block does not respond (20_memory.md
R201): a free value, new at each read, a byte of it for an 8-bit read (DESIGN CHOICE, log 7). -/
def HostSystem.platformData (h : HostSystem) (a : BusAccess) : Word32 :=
  match a.op with
  | .rd8 => ((Config.platformData h.vars.length a.addr).extractLsb' 0 8).setWidth 32
  | .rd32 | .wr8 _ | .wr32 _ | .otherSize _ _ => Config.platformData h.vars.length a.addr

/-- The bus access of a script's transaction at an offset from BASE (R307). -/
def scriptAccess (off : Nat) (op : BusOp) : BusAccess := { addr := Config.base + off, op := op }

/-- One bus transaction of the script, as the block's next turn; a read stores what it returned. -/
def HostSystem.access (h : HostSystem) (off : Nat) (op : BusOp) (into : Option HostVar) :
    Host.Outcome HostSystem HostStop Refusal :=
  match step { h.block with turns := [.host (scriptAccess off op)] } with
  | .next t =>
    .next
      { h with
        block := t
        at_ := h.at_ + 1
        vars := match into with
          | some v => HostVars.readInto h.vars v (t.resp.data.getD (h.platformData (scriptAccess off op)))
          | none => h.vars }
  | .fault f => .fault (.block f)
  | .refused r => .refused r

/-- A write statement (R307): the datum's low 32 or 8 bits are sent (DESIGN CHOICE for wider data, log 15). -/
def HostSystem.write (h : HostSystem) (off : Nat) (d : HostData) (op : Word64 → BusOp) :
    Host.Outcome HostSystem HostStop Refusal :=
  match h.dataValue d with
  | .ok x => h.access off (op x) none
  | .error v => .fault (.unreadVariable v)

/-- A branch statement, taken when the expression's being 0 equals `onZero` (R307). -/
def HostSystem.branch (h : HostSystem) (onZero : Bool) (e : HostExpr) (l : HostLabel) :
    Host.Outcome HostSystem HostStop Refusal :=
  match h.varValue e.variable with
  | none => .fault (.unreadVariable e.variable)
  | some x =>
    if (e.value x == 0) == onZero then
      match labelIndex h.script l with
      | some k => .next { h with at_ := k }
      | none => .fault (.noSuchLabel l)
    else .next { h with at_ := h.at_ + 1 }

/-- The host's next statement (R307): one bus transaction, or host-side control. -/
def HostSystem.stmtStep (h : HostSystem) : Host.Outcome HostSystem HostStop Refusal :=
  match h.script[h.at_]? with
  | none | some .halt => .next h
  | some (.label _) => .next { h with at_ := h.at_ + 1 }
  | some (.bz e l) => h.branch true e l
  | some (.bnz e l) => h.branch false e l
  | some (.wr32 off d) => h.write off d (fun x => .wr32 (x.setWidth 32))
  | some (.wr8 off d) => h.write off d (fun x => .wr8 (x.setWidth 8))
  | some (.rd32 off v) => h.access off .rd32 (some v)
  | some (.rd8 off v) => h.access off .rd8 (some v)

/-- One step of the host and the block together; `engineFirst` says which of the two agents moves, so every
interleaving of 20_memory.md R212 is some sequence of choices. -/
def HostSystem.step (h : HostSystem) (engineFirst : Bool) : Host.Outcome HostSystem HostStop Refusal :=
  if engineFirst then
    match Sys2Proof.Machine.step { h.block with turns := [.engine] } with
    | .next t => .next { h with block := t }
    | .fault f => .fault (.block f)
    | .refused r => .refused r
  else h.stmtStep

end Sys2Proof.Machine
end

