-- ==== Sys2Proof/Safety.lean ====
section
/-! DEFINITION. The terms claims are made in: what an outcome leaves, the invariant every step keeps, which host accesses
are quiet, and the inputs and outputs of a command. -/

namespace Sys2Proof.Machine

/-- The state a step answers, if it answers one. -/
def nextOf (o : Host.Outcome State Fault Refusal) : Option State :=
  match o with
  | .next s => some s
  | .fault _ | .refused _ => none

/-- `s` after a successful completion (40_codec_and_command.md R403), spelled out. -/
def State.afterSuccess (s : State) : State := { s with errCode := 0, errf := false, busy := false, done := true }

/-- `s` after a completion with an error code (R403), spelled out. -/
def State.afterError (s : State) (code : BitVec 4) : State :=
  { s with errCode := code, errf := true, busy := false, done := true }

/-- `s` with the four KEY registers zeroed (44_rsa.md R600, `KeyFail`), spelled out. -/
def State.zeroKey (s : State) : State := { s with keyN := 0, keyPhi := 0, keyE := 0, keyD := 0 }

/-- Every byte outside the offsets of `written` reads in `t` as in `s`. -/
def SameMemoryOutside (written : Nat → Prop) (s t : State) : Prop :=
  ∀ x, ¬ written x → Memory.read t.mem x = Memory.read s.mem x

/-- The ASCII byte of a Letter (00_scope.md R17), spelled out. -/
def asciiOf (l : Letter) : Byte := BitVec.ofNat 8 (0x41 + l.val)

/-- The rank of column `c` under key `K`, by counting: how many columns come before it in the order by (letter value,
index) (43_transposition.md R550). -/
def rankByCount (K : List Letter) (c : Nat) : Nat :=
  ((List.range K.length).filter
    (fun d => decide ((K.getD d 0).val < (K.getD c 0).val ∨ ((K.getD d 0).val = (K.getD c 0).val ∧ d < c)))).length

/-- Where column `c` starts in a ciphertext of `N` Letters: the lengths of the columns of lower rank, added up
(43_transposition.md R552). -/
def columnStart (K : List Letter) (N c : Nat) : Nat :=
  (((List.range K.length).filter (fun d => decide (rankByCount K d < rankByCount K c))).map
    (fun d => N / K.length + (if d < N % K.length then 1 else 0))).sum

/-- `m` Letters of `T` remain once every trailing 'X' is stripped (43_transposition.md R552). -/
def StripsTo (T : List Letter) (m : Nat) : Prop :=
  m ≤ T.length ∧ (∀ j, m ≤ j → j < T.length → T.getD j 0 = 23) ∧ (0 < m → T.getD (m - 1) 0 ≠ 23)

/-- A key tuple that RSAKEYGEN may produce (44_rsa.md R600). -/
def GoodKey (n phi e d : Nat) : Prop :=
  (∃ p q, Nat.Prime p ∧ Nat.Prime q ∧ p ≠ q ∧ n = p * q ∧ phi = (p - 1) * (q - 1)) ∧
  2 ≤ e ∧ Nat.gcd e phi = 1 ∧ (∀ k, 2 ≤ k → k < e → Nat.gcd k phi ≠ 1) ∧ d < phi ∧ e * d % phi = 1

/-- The buffers' memory: canonical, and every listed offset in a buffer (20_memory.md R201). -/
def State.MemoryInv (s : State) : Prop :=
  Memory.wf s.mem = true ∧ ∀ x, inBuffer x = false → Memory.read s.mem x = none

/-- The flags and ERR (10_state.md R104, R105; 60_exceptions.md R700; 40_codec_and_command.md R401). -/
def State.StatusInv (s : State) : Prop :=
  s.errCode.toNat ≤ 6 ∧ (s.errf = true ↔ s.errCode ≠ 0) ∧ (s.busy = true → s.done = false) ∧
  (s.busy = true → s.cmd = 0x00000004 → s.keyValid = false)

/-- KEY_VALID (10_state.md R104, R113). -/
def State.KeyInv (s : State) : Prop :=
  s.keyValid = true → GoodKey s.keyN.toNat s.keyPhi.toNat s.keyE.toNat s.keyD.toNat

/-- The output buffers and their lengths (10_state.md R109, R116, R117; 00_scope.md R10). -/
def State.TextInv (s : State) : Prop :=
  s.outLen.toNat ≤ 1087 ∧
  (∀ i, i < s.outLen.toNat → ∃ b, s.byte .outBuf i = some b ∧ 0x41 ≤ b.toNat ∧ b.toNat ≤ 0x5A) ∧
  s.nrows.toNat ≤ 1024 ∧ s.ncols.toNat ≤ 64 ∧
  (∀ c, c < s.ncols.toNat → ∃ b, s.byte .rankBuf c = some b ∧ b.toNat < s.ncols.toNat)

/-- The invariant of the block: every step keeps it. -/
def State.Inv (s : State) : Prop := s.MemoryInv ∧ s.StatusInv ∧ s.KeyInv ∧ s.TextInv

/-- A write that performs a soft reset (10_state.md R102). -/
def isSoftReset (a : BusAccess) : Bool :=
  match offsetOf a.addr, a.op with
  | some 0x004, .wr32 d => d.getLsbD 1
  | _, _ => false

/-- An access that is no bus error: outside the window, or permitted (20_memory.md R202, R203). -/
def isPermitted (a : BusAccess) : Bool :=
  match offsetOf a.addr with
  | some off => permitted a.op off
  | none => true

/-- The next turn is the engine's: it stands next in `turns`, or no turn is left (log 2). -/
def State.TakesEngine (s : State) : Prop := s.turns.head? = none ∨ s.turns.head? = some .engine

/-- The next turn is a host write of the 32-bit word `d` at window offset `off`. -/
def State.TakesWrite (s : State) (off : Nat) (d : Word32) : Prop :=
  ∃ a, s.turns.head? = some (.host a) ∧ offsetOf a.addr = some off ∧ a.op = .wr32 d

/-- The next turn is a reset, power-on or soft (70_reset_and_hazards.md R800, R801). -/
def State.TakesReset (s : State) : Prop :=
  s.turns.head? = some .powerOn ∨ ∃ a, s.turns.head? = some (.host a) ∧ isSoftReset a = true

/-- The value of a string of hex digits in capitals, most significant first. -/
def hexValue (ds : List Char) : Nat := ds.foldl (fun n c => 16 * n + "0123456789ABCDEF".toList.idxOf c) 0

/-- Every byte of IN_BUF and KEY_BUF that a text command could read holds a value (70_reset_and_hazards.md R803). -/
def State.TextWritten (s : State) : Prop :=
  (∀ k, k < s.inLen.toNat → k < 1024 → s.byte .inBuf k ≠ none) ∧
  (∀ k, k < s.keyLen.toNat → k < 64 → s.byte .keyBuf k ≠ none)

/-- The two states agree on what the table of 30_encoding.md R305 lists as inputs of `i`: the operands, the lengths, and
the bytes of IN_BUF and KEY_BUF below the lengths (a length beyond the buffer is an error before any byte is read,
40_codec_and_command.md R412). -/
def SameInputs (i : Instr) (s s' : State) : Prop :=
  match i with
  | .modexp | .rsaenc | .rsadec => s.op0 = s'.op0 ∧ s.op1 = s'.op1 ∧ s.op2 = s'.op2
  | .modinv | .rsakeygen => s.op0 = s'.op0 ∧ s.op1 = s'.op1
  | .isprime => s.op0 = s'.op0
  | .affenc | .affdec =>
    s.op0 = s'.op0 ∧ s.op1 = s'.op1 ∧ s.inLen = s'.inLen ∧
    ∀ k, k < s.inLen.toNat → k < 1024 → s.byte .inBuf k = s'.byte .inBuf k
  | .colenc | .coldec =>
    s.inLen = s'.inLen ∧ s.keyLen = s'.keyLen ∧
    (∀ k, k < s.inLen.toNat → k < 1024 → s.byte .inBuf k = s'.byte .inBuf k) ∧
    ∀ k, k < s.keyLen.toNat → k < 64 → s.byte .keyBuf k = s'.byte .keyBuf k

/-- The two states agree on the outputs of `i` in the table of R305, after a success. -/
def SameOutputs (i : Instr) (t t' : State) : Prop :=
  match i with
  | .modexp | .modinv | .isprime | .rsaenc | .rsadec => t.result = t'.result
  | .rsakeygen =>
    t.keyN = t'.keyN ∧ t.keyPhi = t'.keyPhi ∧ t.keyE = t'.keyE ∧ t.keyD = t'.keyD ∧ t.keyValid = t'.keyValid
  | .affenc | .affdec =>
    t.outLen = t'.outLen ∧ ∀ k, k < t.outLen.toNat → t.byte .outBuf k = t'.byte .outBuf k
  | .colenc | .coldec =>
    t.outLen = t'.outLen ∧ t.nrows = t'.nrows ∧ t.ncols = t'.ncols ∧
    (∀ k, k < t.outLen.toNat → t.byte .outBuf k = t'.byte .outBuf k) ∧
    ∀ c, c < t.ncols.toNat → t.byte .rankBuf c = t'.byte .rankBuf c

end Sys2Proof.Machine
end

