-- ==== Sys2Proof/Certificates/Slice0/Obligations.lean ====
section
/-! DEFINITION. The statements for the provers, each with the rule of spec/ it formalises. -/

open Sys2Proof Sys2Proof.Machine

/-! ## Encoding -/

/-- 30_encoding.md R301: a word decodes to a command exactly when it is that command's full word; the legal words are the
listed ones; and legality is RSVD = 0 with a listed OPC. -/
def Obligations.DecodeAcceptsExactlyTheOpcodeMap : Prop :=
  ∀ w : Word32,
    (∀ i, decode w = .ok i ↔ w = encode i) ∧
    ((∃ i, decode w = .ok i) ↔ w.toNat ∈ [0x01, 0x02, 0x03, 0x04, 0x05, 0x06, 0x10, 0x11, 0x20, 0x21]) ∧
    ((∃ i, decode w = .ok i) ↔
      w.extractLsb' 8 24 = 0 ∧
        (w.extractLsb' 0 8).toNat ∈ [0x01, 0x02, 0x03, 0x04, 0x05, 0x06, 0x10, 0x11, 0x20, 0x21]) ∧
    decode 0x00000001 = .ok .modexp ∧ decode 0x00000002 = .ok .modinv ∧ decode 0x00000003 = .ok .isprime ∧
    decode 0x00000004 = .ok .rsakeygen ∧ decode 0x00000005 = .ok .rsaenc ∧ decode 0x00000006 = .ok .rsadec ∧
    decode 0x00000010 = .ok .affenc ∧ decode 0x00000011 = .ok .affdec ∧ decode 0x00000020 = .ok .colenc ∧
    decode 0x00000021 = .ok .coldec

/-- Opcode table rows, bit by bit, decode to the command they stand for, by the decoder the host asks. -/
def Obligations.TableWordsDecodeToTheirRows : Prop :=
  decodeTableWord 32 0b00000000000000000000000000000001 = some .modexp ∧
  decodeTableWord 32 0b00000000000000000000000000000100 = some .rsakeygen ∧
  decodeTableWord 32 0b00000000000000000000000000010000 = some .affenc ∧
  decodeTableWord 32 0b00000000000000000000000000100001 = some .coldec ∧
  decodeTableWord 32 0b00000000000000000000000100000100 = none

/-- Decode of encode is the identity on every command, and no two commands share a word; so the word a command is encoded
to is the one `step` runs it from. That `withFetchWord` accepts the word whether or not the block is busy, and puts the
engine's turn in front, is the model's choice (log 13). -/
def Obligations.EncodedCommandRunsAsItself : Prop :=
  ∀ (i j : Instr) (s : State), i.wf = true →
    decode (encode i) = .ok i ∧ (encode i = encode j → i = j) ∧ decodeTableWord 32 (encode i).toNat = some i ∧
    step (s.withFetchWord 32 (encode i).toNat) =
      exec i { s with cmd := encode i, busy := true, done := false, keyValid := s.keyValid && (encode i != 4) }

/-- 30_encoding.md R302: an illegal word is accepted by an idle block, never clears KEY_VALID, and completes with
IllegalCommand and no other effect. -/
def Obligations.IllegalWordOnlyReportsIllegalCommand : Prop :=
  ∀ (s : State) (w : Word32), (∀ i, w ≠ encode i) →
    (s.busy = false →
      windowAccess s 0x008 (.wr32 w) = ({ s with cmd := w, busy := true, done := false }, .written)) ∧
    (∀ ts, s.busy = true → s.cmd = w → s.turns = .engine :: ts →
      step s = .next { s with turns := ts, errCode := 6, errf := true, busy := false, done := true })

/-- 30_encoding.md R310: a CMD word is spelled as its mnemonic, or as `.illegal 0x` and eight hex digits whose value is the
word; no two words have one spelling. That the digits are capitals is the model's choice (log 14). -/
def Obligations.DisassemblySpellsEveryWord : Prop :=
  (∀ i : Instr, disassemble (encode i) = i.mnemonic) ∧
  (∀ w : Word32, (∀ i, w ≠ encode i) →
    ∃ ds : List Char, ds.length = 8 ∧ (∀ d ∈ ds, d ∈ "0123456789ABCDEF".toList) ∧ hexValue ds = w.toNat ∧
      disassemble w = ".illegal 0x" ++ String.ofList ds) ∧
  (∀ w v : Word32, disassemble w = disassemble v → w = v)

/-! ## Agents, acceptance, completion -/

/-- 40_codec_and_command.md R401: what a CMD write does to an idle and to a busy block. -/
def Obligations.CommandWriteIsAcceptedOrLost : Prop :=
  ∀ (s : State) (w : Word32),
    (s.busy = true → windowAccess s 0x008 (.wr32 w) = ({ s with werr := true }, .written)) ∧
    (s.busy = false → w = 0x00000004 →
      windowAccess s 0x008 (.wr32 w) =
        ({ s with cmd := w, busy := true, done := false, keyValid := false }, .written)) ∧
    (s.busy = false → w ≠ 0x00000004 →
      windowAccess s 0x008 (.wr32 w) = ({ s with cmd := w, busy := true, done := false }, .written))

/-- 40_codec_and_command.md R400, R402, R404: the engine's turn runs the decoded command when BUSY = 1 and does nothing
when BUSY = 0. The model's choices: that an exhausted list of turns lets the engine go (log 2), and that an engine turn of
an idle block only passes and an idle block with no turn left answers the same state (log 9). -/
def Obligations.EngineTurnRunsTheDecodedCommand : Prop :=
  ∀ (s : State) (ts : List Turn) (i : Instr),
    (s.busy = true → decode s.cmd = .ok i → s.turns = .engine :: ts → step s = exec i { s with turns := ts }) ∧
    (s.busy = true → decode s.cmd = .ok i → s.turns = [] → step s = exec i s) ∧
    (s.busy = false → s.turns = .engine :: ts → step s = .next { s with turns := ts }) ∧
    (s.busy = false → s.turns = [] → step s = .next s)

/-- 20_memory.md R209, R212: a host turn is exactly one bus access, and a power-on turn exactly one reset
(70_reset_and_hazards.md R800), with no engine step inside. That a forbidden access stops the step is
93_implementation_defined.md I2 (log 3). That a power-on keeps the coming turns, raises the power-on count and clears the
response is the model's choice (log 10), and so is the response kept in the state (log 8). -/
def Obligations.HostTurnIsOneAccess : Prop :=
  ∀ (s : State) (ts : List Turn) (a : BusAccess),
    (s.turns = .host a :: ts → isPermitted a = true →
      step s = .next { (busAccess { s with turns := ts } a).1 with resp := (busAccess { s with turns := ts } a).2 }) ∧
    (s.turns = .host a :: ts → isPermitted a = false → step s = .fault .hostBusError) ∧
    (s.turns = .powerOn :: ts →
      step s = .next { State.reset with turns := ts, powerEpoch := s.powerEpoch + 1 })

/-- 40_codec_and_command.md R403 and 60_exceptions.md R700: what every completion leaves in STATUS and ERR, and IRQ. -/
def Obligations.EveryCompletionReportsItsOutcome : Prop :=
  ∀ (i : Instr) (s t : State), exec i s = .next t →
    t.busy = false ∧ t.done = true ∧ (t.errf = true ↔ t.errCode ≠ 0) ∧ t.errCode.toNat ≤ 5 ∧ t.irq = s.ie ∧
    t.ie = s.ie ∧ t.werr = s.werr

/-- 40_codec_and_command.md R405, 30_encoding.md R305: a command's outcome and outputs depend only on the operands, lengths
and bytes the table lists for it. That reading a byte with no value faults is 93_implementation_defined.md I1 (log 4). -/
def Obligations.OutcomeDependsOnlyOnListedInputs : Prop :=
  ∀ (i : Instr) (s s' : State), SameInputs i s s' →
    (∀ t, exec i s = .next t →
      ∃ t', exec i s' = .next t' ∧ t'.errCode = t.errCode ∧ (t.errCode = 0 → SameOutputs i t t')) ∧
    (∀ f, exec i s = .fault f → exec i s' = .fault f)

/-- 20_memory.md R215, 60_exceptions.md R701: no command changes CMD, an operand, a length register it reads, IN_BUF or
KEY_BUF. -/
def Obligations.CommandsKeepTheirInputs : Prop :=
  ∀ (i : Instr) (s t : State), exec i s = .next t →
    t.cmd = s.cmd ∧ t.op0 = s.op0 ∧ t.op1 = s.op1 ∧ t.op2 = s.op2 ∧ t.inLen = s.inLen ∧ t.keyLen = s.keyLen ∧
    t.turns = s.turns ∧ t.resp = s.resp ∧ t.powerEpoch = s.powerEpoch ∧
    (∀ k, k < 1024 → t.byte .inBuf k = s.byte .inBuf k) ∧ (∀ k, k < 64 → t.byte .keyBuf k = s.byte .keyBuf k)

/-- 60_exceptions.md R702: a command that raises writes nothing of its success path; only RSAKEYGEN zeroes the key. -/
def Obligations.ErrorsLeaveOutputsUnchanged : Prop :=
  ∀ (i : Instr) (s t : State), exec i s = .next t → t.errCode ≠ 0 →
    (i ≠ .rsakeygen → t = s.afterError t.errCode) ∧ (i = .rsakeygen → t = s.zeroKey.afterError t.errCode)

/-- 40_codec_and_command.md R406: no command is refused; a numeric command always completes, and a text command completes
when the bytes it could read hold values (70_reset_and_hazards.md R803). -/
def Obligations.EveryCommandCompletes : Prop :=
  ∀ (i : Instr) (s : State),
    (∀ r, exec i s ≠ .refused r) ∧
    (i ∈ [Instr.modexp, .modinv, .isprime, .rsakeygen, .rsaenc, .rsadec] → ∃ t, exec i s = .next t ∧ t.done = true) ∧
    (s.TextWritten → ∃ t, exec i s = .next t ∧ t.done = true)

/-- 93_implementation_defined.md I1: an affine command faults exactly when it gets to read a byte of IN_BUF that holds no
value. -/
def Obligations.AffineFaultsOnlyOnUnwrittenBytes : Prop :=
  ∀ (s : State) (i : Instr) (f : Fault), i = .affenc ∨ i = .affdec →
    (exec i s = .fault f ↔
      f = .unwrittenByte .inBuf ∧ s.inLen.toNat ≤ 1024 ∧
      s.op0.toInt ∈ [(1 : Int), 3, 5, 7, 9, 11, 15, 17, 19, 21, 23, 25] ∧
      ∃ k, k < s.inLen.toNat ∧ s.byte .inBuf k = none)

/-- 93_implementation_defined.md I1: a transposition command faults exactly when it gets to read a byte of KEY_BUF, or,
its key being valid, of IN_BUF, that holds no value. -/
def Obligations.TranspositionFaultsOnlyOnUnwrittenBytes : Prop :=
  ∀ (s : State) (i : Instr) (f : Fault), i = .colenc ∨ i = .coldec →
    (exec i s = .fault f ↔
      s.inLen.toNat ≤ 1024 ∧ s.keyLen.toNat ≤ 64 ∧
      ((f = .unwrittenByte .keyBuf ∧ ∃ k, k < s.keyLen.toNat ∧ s.byte .keyBuf k = none) ∨
       (f = .unwrittenByte .inBuf ∧
         (∃ kb, s.bytes .keyBuf s.keyLen.toNat = some kb ∧ 2 ≤ (filterText kb).length) ∧
         ∃ k, k < s.inLen.toNat ∧ s.byte .inBuf k = none)))

/-- 20_memory.md R206, R215, 92_eei_decisions.md D35: however many quiet accesses (no bus error, no soft reset) the host
makes while a command is pending, the command then completes, and leaves what it would have left without them, up to IE,
WERR and the last bus response. That the engine goes when the turns are exhausted is the model's choice (log 2). -/
def Obligations.BusyAccessesNeitherDelayNorChangeTheCommand : Prop :=
  ∀ (s v : State) (i : Instr) (accs : List BusAccess),
    s.busy = true → decode s.cmd = .ok i → s.turns = accs.map Turn.host →
    (∀ a ∈ accs, isPermitted a = true ∧ isSoftReset a = false) →
    exec i { s with turns := [] } = .next v →
    ∃ t, Sys2Proof.core.run (accs.length + 1) s = .next t ∧
      t = { v with ie := t.ie, werr := t.werr, resp := t.resp }

/-! ## Modular arithmetic -/

/-- 00_scope.md R13: normMod is the residue in [0, m). -/
def Obligations.NormModIsTheResidue : Prop :=
  ∀ (n : Int) (m : Nat), 0 < m →
    normMod n m < m ∧ (m : Int) ∣ n - normMod n m ∧ ∀ r : Nat, r < m → (m : Int) ∣ n - r → r = normMod n m

/-- 41_modular_arithmetic.md R452: ExtGcd gives the gcd and a Bezout pair. -/
def Obligations.ExtGcdGivesABezoutPair : Prop :=
  ∀ a b : Nat, (extGcd a b).1 = Nat.gcd a b ∧
    (a : Int) * (extGcd a b).2.1 + (b : Int) * (extGcd a b).2.2 = (Nat.gcd a b : Int)

/-- 41_modular_arithmetic.md R455: MODEXP. -/
def Obligations.ModexpComputesThePower : Prop :=
  ∀ s : State,
    (s.op2.toNat = 0 → exec .modexp s = .next (s.afterError 3)) ∧
    (s.op2.toNat ≠ 0 →
      exec .modexp s =
        .next { s with result := BitVec.ofNat 64 (s.op0.toNat ^ s.op1.toNat % s.op2.toNat) }.afterSuccess)

/-- 41_modular_arithmetic.md R456: MODINV. The inverse below m is unique, so the result is determined. -/
def Obligations.ModinvComputesTheInverse : Prop :=
  ∀ s : State,
    (s.op1.toNat = 0 → exec .modinv s = .next (s.afterError 3)) ∧
    (s.op1.toNat ≠ 0 → Nat.gcd s.op0.toNat s.op1.toNat ≠ 1 → exec .modinv s = .next (s.afterError 5)) ∧
    (s.op1.toNat ≠ 0 → Nat.gcd s.op0.toNat s.op1.toNat = 1 →
      ∃ r, r < s.op1.toNat ∧ s.op0.toNat * r % s.op1.toNat = 1 % s.op1.toNat ∧
        exec .modinv s = .next { s with result := BitVec.ofNat 64 r }.afterSuccess)

/-- 41_modular_arithmetic.md R457: ISPRIME; RESULT = 1 exactly when n is prime. -/
def Obligations.IsprimeDecidesPrimality : Prop :=
  ∀ s : State,
    (Nat.Prime s.op0.toNat → exec .isprime s = .next { s with result := 1 }.afterSuccess) ∧
    (¬ Nat.Prime s.op0.toNat → exec .isprime s = .next { s with result := 0 }.afterSuccess)

/-- 41_modular_arithmetic.md R458: the ranges of the numeric results. -/
def Obligations.NumericResultsAreInRange : Prop :=
  ∀ (i : Instr) (s t : State), exec i s = .next t → t.errCode = 0 →
    (i = .modexp ∨ i = .rsaenc ∨ i = .rsadec → t.result.toNat < s.op2.toNat) ∧
    (i = .modinv → t.result.toNat < s.op1.toNat) ∧
    (i = .isprime → t.result.toNat ≤ 1) ∧
    (i = .rsakeygen →
      t.keyN.toNat = s.op0.toNat * s.op1.toNat ∧ t.keyPhi.toNat = (s.op0.toNat - 1) * (s.op1.toNat - 1) ∧
      t.keyPhi.toNat < t.keyN.toNat ∧ 3 ≤ t.keyE.toNat ∧ t.keyE.toNat ≤ t.keyPhi.toNat + 1 ∧
      1 ≤ t.keyD.toNat ∧ t.keyD.toNat < t.keyPhi.toNat)

/-- The frame of MODEXP, MODINV, ISPRIME, RSAENC and RSADEC (10_state.md R111, R120): only RESULT and the completion's
BUSY, DONE, ERRF and ERR may change; every byte of memory stays. -/
def Obligations.ResultCommandsFrame : Prop :=
  ∀ (i : Instr) (s t : State), i ∈ [Instr.modexp, .modinv, .isprime, .rsaenc, .rsadec] → exec i s = .next t →
    t = { s with result := t.result, busy := false, done := true, errf := t.errf, errCode := t.errCode } ∧
    SameMemoryOutside (fun _ => False) s t

/-! ## RSA -/

/-- 44_rsa.md R600: RSAKEYGEN. -/
def Obligations.RsakeygenMakesTheKey : Prop :=
  ∀ s : State,
    (¬ Nat.Prime s.op0.toNat ∨ ¬ Nat.Prime s.op1.toNat ∨ s.op0 = s.op1 →
      exec .rsakeygen s = .next (s.zeroKey.afterError 2)) ∧
    (Nat.Prime s.op0.toNat → Nat.Prime s.op1.toNat → s.op0 ≠ s.op1 → 2 ^ 64 ≤ s.op0.toNat * s.op1.toNat →
      exec .rsakeygen s = .next (s.zeroKey.afterError 3)) ∧
    (Nat.Prime s.op0.toNat → Nat.Prime s.op1.toNat → s.op0 ≠ s.op1 → s.op0.toNat * s.op1.toNat < 2 ^ 64 →
      ∃ phi e d : Nat,
        phi = (s.op0.toNat - 1) * (s.op1.toNat - 1) ∧
        3 ≤ e ∧ e % 2 = 1 ∧ e ≤ phi + 1 ∧ Nat.gcd e phi = 1 ∧ (∀ k, 2 ≤ k → k < e → Nat.gcd k phi ≠ 1) ∧
        1 ≤ d ∧ d < phi ∧ e * d % phi = 1 ∧
        exec .rsakeygen s =
          .next
            { s with
              keyN := BitVec.ofNat 64 (s.op0.toNat * s.op1.toNat)
              keyPhi := BitVec.ofNat 64 phi
              keyE := BitVec.ofNat 64 e
              keyD := BitVec.ofNat 64 d
              keyValid := true }.afterSuccess)

/-- 44_rsa.md R601: RSAENC. -/
def Obligations.RsaencEncryptsResidues : Prop :=
  ∀ s : State,
    (s.op2.toNat ≤ s.op0.toNat → exec .rsaenc s = .next (s.afterError 4)) ∧
    (s.op0.toNat < s.op2.toNat →
      exec .rsaenc s =
        .next { s with result := BitVec.ofNat 64 (s.op0.toNat ^ s.op1.toNat % s.op2.toNat) }.afterSuccess)

/-- 44_rsa.md R602: RSADEC. -/
def Obligations.RsadecDecryptsAnything : Prop :=
  ∀ s : State,
    (s.op2.toNat = 0 → exec .rsadec s = .next (s.afterError 3)) ∧
    (s.op2.toNat ≠ 0 →
      exec .rsadec s =
        .next { s with result := BitVec.ofNat 64 (s.op0.toNat ^ s.op1.toNat % s.op2.toNat) }.afterSuccess)

/-- 44_rsa.md R603: with a generated key, e·d ≡ 1 (mod φ), and RSADEC of RSAENC of m is m for every m < n. -/
def Obligations.RsaDecryptionInvertsEncryption : Prop :=
  ∀ s t : State, exec .rsakeygen s = .next t → t.errCode = 0 →
    t.keyE.toNat * t.keyD.toNat % t.keyPhi.toNat = 1 ∧
    ∀ s1 : State, s1.op1 = t.keyE → s1.op2 = t.keyN → s1.op0.toNat < t.keyN.toNat →
      ∃ t1, exec .rsaenc s1 = .next t1 ∧ t1.errCode = 0 ∧
        ∀ s2 : State, s2.op0 = t1.result → s2.op1 = t.keyD → s2.op2 = t.keyN →
          ∃ t2, exec .rsadec s2 = .next t2 ∧ t2.errCode = 0 ∧ t2.result = s1.op0

/-- The frame of RSAKEYGEN (10_state.md R112, R120; 44_rsa.md R600): only the KEY registers, KEY_VALID and the completion's
BUSY, DONE, ERRF and ERR may change; KEY_VALID changes on success only; every byte of memory stays. -/
def Obligations.RsakeygenFrame : Prop :=
  ∀ s t : State, exec .rsakeygen s = .next t →
    t = { s with
          keyN := t.keyN, keyPhi := t.keyPhi, keyE := t.keyE, keyD := t.keyD, keyValid := t.keyValid, busy := false,
          done := true, errf := t.errf, errCode := t.errCode } ∧
    (t.errCode ≠ 0 → t.keyValid = s.keyValid) ∧ SameMemoryOutside (fun _ => False) s t

/-! ## Alphabet Codec and affine cipher -/

/-- 40_codec_and_command.md R410: Filter keeps the letters, case-folded, and drops every other byte. -/
def Obligations.FilterKeepsExactlyTheLetters : Prop :=
  filterText [] = [] ∧
  ∀ (c : Byte) (bs : List Byte),
    (0x41 ≤ c.toNat → c.toNat ≤ 0x5A →
      ∃ l : Letter, l.val = c.toNat - 0x41 ∧ filterText (c :: bs) = l :: filterText bs) ∧
    (0x61 ≤ c.toNat → c.toNat ≤ 0x7A →
      ∃ l : Letter, l.val = c.toNat - 0x61 ∧ filterText (c :: bs) = l :: filterText bs) ∧
    (c.toNat < 0x41 ∨ (0x5A < c.toNat ∧ c.toNat < 0x61) ∨ 0x7A < c.toNat → filterText (c :: bs) = filterText bs)

/-- 40_codec_and_command.md R411: Letter2Byte of any integer is the byte of its residue mod 26; Filter of the bytes of a
Letter sequence is that sequence. -/
def Obligations.LetterBytesAreReadBack : Prop :=
  (∀ v : Int, ∃ r : Nat, r < 26 ∧ (26 : Int) ∣ v - r ∧ letter2Byte v = BitVec.ofNat 8 (0x41 + r)) ∧
  (∀ t : List Letter, filterText (t.map letterByte) = t)

/-- 42_affine.md R501: the scan finds the inverse mod 26 of every unit, as the table lists it. -/
def Obligations.InverseModTwentySixIsTheTable : Prop :=
  [(1 : Int), 3, 5, 7, 9, 11, 15, 17, 19, 21, 23, 25].map inv26 = [1, 9, 21, 15, 3, 19, 7, 23, 11, 5, 17, 25] ∧
  ∀ a ∈ [(1 : Int), 3, 5, 7, 9, 11, 15, 17, 19, 21, 23, 25], a * inv26 a % 26 = 1

/-- 42_affine.md R502: AFFENC, with its errors in their order (R412, R413, R500). -/
def Obligations.AffencEncodesTheMessage : Prop :=
  ∀ s : State,
    (1024 < s.inLen.toNat → exec .affenc s = .next (s.afterError 3)) ∧
    (s.inLen.toNat ≤ 1024 → s.op0.toInt ∉ [(1 : Int), 3, 5, 7, 9, 11, 15, 17, 19, 21, 23, 25] →
      exec .affenc s = .next (s.afterError 2)) ∧
    (s.inLen.toNat ≤ 1024 → s.op0.toInt ∈ [(1 : Int), 3, 5, 7, 9, 11, 15, 17, 19, 21, 23, 25] →
      ∀ bs, s.bytes .inBuf s.inLen.toNat = some bs →
        (filterText bs = [] → exec .affenc s = .next (s.afterError 1)) ∧
        (filterText bs ≠ [] →
          ∃ t, exec .affenc s = .next t ∧
            t = { s with mem := t.mem, outLen := BitVec.ofNat 32 (filterText bs).length }.afterSuccess ∧
            (∀ k (h : k < (filterText bs).length),
              t.byte .outBuf k =
                some (BitVec.ofNat 8
                  (0x41 + ((s.op0.toInt * ((filterText bs)[k].val : Int) + s.op1.toInt) % 26).toNat))) ∧
            SameMemoryOutside (fun x => 0x1000 ≤ x ∧ x < 0x1000 + (filterText bs).length) s t))

/-- 42_affine.md R503: AFFDEC, with its errors in their order; `a⁻¹` is the inverse mod 26 of R501, given as any x with
(a·x) mod 26 = 1. -/
def Obligations.AffdecDecodesTheMessage : Prop :=
  ∀ s : State,
    (1024 < s.inLen.toNat → exec .affdec s = .next (s.afterError 3)) ∧
    (s.inLen.toNat ≤ 1024 → s.op0.toInt ∉ [(1 : Int), 3, 5, 7, 9, 11, 15, 17, 19, 21, 23, 25] →
      exec .affdec s = .next (s.afterError 2)) ∧
    (s.inLen.toNat ≤ 1024 → s.op0.toInt ∈ [(1 : Int), 3, 5, 7, 9, 11, 15, 17, 19, 21, 23, 25] →
      ∀ bs, s.bytes .inBuf s.inLen.toNat = some bs →
        (filterText bs = [] → exec .affdec s = .next (s.afterError 1)) ∧
        (filterText bs ≠ [] →
          ∃ t, exec .affdec s = .next t ∧
            t = { s with mem := t.mem, outLen := BitVec.ofNat 32 (filterText bs).length }.afterSuccess ∧
            (∀ (x : Int), s.op0.toInt * x % 26 = 1 → ∀ k (h : k < (filterText bs).length),
              t.byte .outBuf k =
                some (BitVec.ofNat 8
                  (0x41 + ((x * (((filterText bs)[k].val : Int) - s.op1.toInt)) % 26).toNat))) ∧
            SameMemoryOutside (fun x => 0x1000 ≤ x ∧ x < 0x1000 + (filterText bs).length) s t))

/-- 42_affine.md R504: AFFDEC with the same key, run on AFFENC's output, gives back the message in upper case. -/
def Obligations.AffineDecodingInvertsEncoding : Prop :=
  ∀ s t s2 : State, exec .affenc s = .next t → t.errCode = 0 →
    s2.op0 = s.op0 → s2.op1 = s.op1 → s2.inLen = t.outLen →
    (∀ k, k < t.outLen.toNat → s2.byte .inBuf k = t.byte .outBuf k) →
    ∃ bs t2, s.bytes .inBuf s.inLen.toNat = some bs ∧ exec .affdec s2 = .next t2 ∧ t2.errCode = 0 ∧
      t2.outLen.toNat = (filterText bs).length ∧
      ∀ k (h : k < (filterText bs).length), t2.byte .outBuf k = some (asciiOf (filterText bs)[k])

/-- The frame of AFFENC and AFFDEC (42_affine.md R502; 10_state.md R108, R116): only OUT_LEN, the first OUT_LEN bytes of
OUT_BUF on success, and the completion's BUSY, DONE, ERRF and ERR may change; GRID and RANK_BUF stay. -/
def Obligations.AffineFrame : Prop :=
  ∀ (i : Instr) (s t : State), i = .affenc ∨ i = .affdec → exec i s = .next t →
    t = { s with
          mem := t.mem, outLen := t.outLen, busy := false, done := true, errf := t.errf, errCode := t.errCode } ∧
    (t.errCode = 0 →
      SameMemoryOutside (fun x => Buf.outBuf.start ≤ x ∧ x < Buf.outBuf.start + t.outLen.toNat) s t) ∧
    (t.errCode ≠ 0 → t.outLen = s.outLen ∧ SameMemoryOutside (fun _ => False) s t)

/-! ## Columnar transposition -/

/-- 43_transposition.md R550: the order is the permutation of the columns sorted by (letter value, index), the rank is the
position in it, and a key of fewer than two letters is InvalidKey. -/
def Obligations.ColumnOrderIsTheStableSort : Prop :=
  (∀ K : List Letter,
    (columnOrder K).Perm (List.range K.length) ∧
    (columnOrder K).Pairwise
      (fun c d => (K.getD c 0).val < (K.getD d 0).val ∨ ((K.getD c 0).val = (K.getD d 0).val ∧ c < d)) ∧
    (∀ r (h : r < (columnOrder K).length), columnRank K (columnOrder K)[r] = r) ∧
    (∀ c, c < K.length → columnRank K c = rankByCount K c ∧ columnRank K c < K.length)) ∧
  (∀ (i : Instr) (s : State) (kb : List Byte), i = .colenc ∨ i = .coldec →
    s.inLen.toNat ≤ 1024 → s.keyLen.toNat ≤ 64 → s.bytes .keyBuf s.keyLen.toNat = some kb →
    (filterText kb).length < 2 → exec i s = .next (s.afterError 2))

/-- 43_transposition.md R551: COLENC, with its errors in their order. `K` is the filtered key, `P` the filtered message,
`L` and `R` the columns and rows; the Letter of row `row` and column `c` is output at rank(c)·R + row. -/
def Obligations.ColencTransposesTheGrid : Prop :=
  ∀ s : State,
    (1024 < s.inLen.toNat ∨ 64 < s.keyLen.toNat → exec .colenc s = .next (s.afterError 3)) ∧
    (s.inLen.toNat ≤ 1024 → s.keyLen.toNat ≤ 64 →
      ∀ kb K, s.bytes .keyBuf s.keyLen.toNat = some kb → filterText kb = K →
        (K.length < 2 → exec .colenc s = .next (s.afterError 2)) ∧
        (2 ≤ K.length → ∀ bs P, s.bytes .inBuf s.inLen.toNat = some bs → filterText bs = P →
          (P = [] → exec .colenc s = .next (s.afterError 1)) ∧
          (P ≠ [] → ∀ L R, L = K.length → R = (P.length + L - 1) / L →
            ∃ t, exec .colenc s = .next t ∧
              t = { s with
                    mem := t.mem, outLen := BitVec.ofNat 32 (R * L), nrows := BitVec.ofNat 16 R
                    ncols := BitVec.ofNat 16 L }.afterSuccess ∧
              (∀ row c, row < R → c < L →
                t.byte .outBuf (rankByCount K c * R + row) = some (asciiOf (P.getD (row * L + c) 23))) ∧
              (∀ c, c < L → t.byte .rankBuf c = some (BitVec.ofNat 8 (rankByCount K c))) ∧
              SameMemoryOutside
                (fun x => (0x1000 ≤ x ∧ x < 0x1000 + R * L) ∨ (0x440 ≤ x ∧ x < 0x440 + L)) s t)))

/-- 43_transposition.md R552: COLDEC, with its errors in their order. `C` is the filtered ciphertext of `N` Letters; the
Letter of row `row` and column `c` of the rebuilt text `T` is C[start(c) + row]; every trailing 'X' is stripped. -/
def Obligations.ColdecRebuildsTheRows : Prop :=
  ∀ s : State,
    (1024 < s.inLen.toNat ∨ 64 < s.keyLen.toNat → exec .coldec s = .next (s.afterError 3)) ∧
    (s.inLen.toNat ≤ 1024 → s.keyLen.toNat ≤ 64 →
      ∀ kb K, s.bytes .keyBuf s.keyLen.toNat = some kb → filterText kb = K →
        (K.length < 2 → exec .coldec s = .next (s.afterError 2)) ∧
        (2 ≤ K.length → ∀ bs C, s.bytes .inBuf s.inLen.toNat = some bs → filterText bs = C →
          (C = [] → exec .coldec s = .next (s.afterError 1)) ∧
          (C ≠ [] → ∀ L N R, L = K.length → N = C.length → R = (N + L - 1) / L →
            ∃ (t : State) (T : List Letter) (m : Nat), exec .coldec s = .next t ∧
              T.length = N ∧
              (∀ row c, c < L → row * L + c < N →
                T.getD (row * L + c) 0 = C.getD (columnStart K N c + row) 0) ∧
              StripsTo T m ∧
              t = { s with
                    mem := t.mem, outLen := BitVec.ofNat 32 m, nrows := BitVec.ofNat 16 R
                    ncols := BitVec.ofNat 16 L }.afterSuccess ∧
              (∀ j, j < m → t.byte .outBuf j = some (asciiOf (T.getD j 0))) ∧
              (∀ c, c < L → t.byte .rankBuf c = some (BitVec.ofNat 8 (rankByCount K c))) ∧
              SameMemoryOutside
                (fun x => (0x1000 ≤ x ∧ x < 0x1000 + m) ∨ (0x440 ≤ x ∧ x < 0x440 + L)) s t)))

/-- 43_transposition.md R553: COLDEC of COLENC is the message with every trailing 'X' removed: for the Letter functions on
every key and message, and for the commands on every output that fits IN_BUF (a longer one is InvalidNumber, 40_codec_and_command.md R412). -/
def Obligations.TranspositionDecodingInvertsEncoding : Prop :=
  (∀ K P : List Letter, 2 ≤ K.length → P ≠ [] →
    transposeDecode K (transposeEncode K P) = P.take (transposeDecode K (transposeEncode K P)).length ∧
    StripsTo P (transposeDecode K (transposeEncode K P)).length) ∧
  (∀ s t s2 : State, exec .colenc s = .next t → t.errCode = 0 →
    s2.inLen = t.outLen → s2.keyLen = s.keyLen →
    (∀ k, k < s.keyLen.toNat → s2.byte .keyBuf k = s.byte .keyBuf k) →
    (∀ k, k < t.outLen.toNat → k < 1024 → s2.byte .inBuf k = t.byte .outBuf k) →
    ∃ bs, s.bytes .inBuf s.inLen.toNat = some bs ∧
      (1024 < t.outLen.toNat → exec .coldec s2 = .next (s2.afterError 3)) ∧
      (t.outLen.toNat ≤ 1024 →
        ∃ t2, exec .coldec s2 = .next t2 ∧ t2.errCode = 0 ∧ StripsTo (filterText bs) t2.outLen.toNat ∧
          ∀ k, k < t2.outLen.toNat → t2.byte .outBuf k = some (asciiOf ((filterText bs).getD k 0))))

/-- The frame of COLENC and COLDEC (43_transposition.md R551, R552; 10_state.md R108, R109, R116, R117): only OUT_LEN,
GRID, the first OUT_LEN bytes of OUT_BUF and the first NCOLS bytes of RANK_BUF on success, and the completion's BUSY,
DONE, ERRF and ERR may change. -/
def Obligations.TranspositionFrame : Prop :=
  ∀ (i : Instr) (s t : State), i = .colenc ∨ i = .coldec → exec i s = .next t →
    t = { s with
          mem := t.mem, outLen := t.outLen, nrows := t.nrows, ncols := t.ncols, busy := false, done := true
          errf := t.errf, errCode := t.errCode } ∧
    (t.errCode = 0 →
      SameMemoryOutside
        (fun x => (Buf.outBuf.start ≤ x ∧ x < Buf.outBuf.start + t.outLen.toNat) ∨
          (Buf.rankBuf.start ≤ x ∧ x < Buf.rankBuf.start + t.ncols.toNat)) s t) ∧
    (t.errCode ≠ 0 →
      t.outLen = s.outLen ∧ t.nrows = s.nrows ∧ t.ncols = s.ncols ∧ SameMemoryOutside (fun _ => False) s t)

/-! ## Host bus -/

/-- 20_memory.md R200, R201: the window is 8 KiB from BASE, BASE is 8 KiB aligned (93_implementation_defined.md I14), and
the block never responds outside it (R201; the model's form of that is log 7). -/
def Obligations.WindowIsEightKibAtBase : Prop :=
  Config.base % 0x2000 = 0 ∧
  (∀ off, off < 0x2000 → offsetOf (Config.base + off) = some off) ∧
  (∀ (s : State) (a : BusAccess), a.addr < Config.base ∨ Config.base + 0x2000 ≤ a.addr →
    offsetOf a.addr = none ∧ busAccess s a = (s, .none))

/-- 20_memory.md R202, R203, R205: which accesses are bus errors; they change no state, a read returns 0, and the access
stops the run as a host fault (93_implementation_defined.md I2). Every other access is none. -/
def Obligations.ForbiddenAccessIsABusError : Prop :=
  ∀ (s : State) (off : Nat) (op : BusOp) (ts : List Turn), off < 0x2000 →
    let inBuffers := (0x400 ≤ off ∧ off < 0x480) ∨ (0x800 ≤ off ∧ off < 0xC00) ∨ (0x1000 ≤ off ∧ off < 0x1800)
    let forbidden :=
      match op with
      | .rd32 | .wr32 _ => off % 4 ≠ 0
      | .rd8 | .wr8 _ => ¬ inBuffers
      | .otherSize _ _ => True
    (forbidden →
      (windowAccess s off op).1 = s ∧
      (op.isRead = true → (windowAccess s off op).2 = .readError 0) ∧
      (op.isRead = false → (windowAccess s off op).2 = .writeError) ∧
      (s.turns = .host { addr := Config.base + off, op := op } :: ts → step s = .fault .hostBusError)) ∧
    (¬ forbidden → (windowAccess s off op).2.isError = false)

/-- 20_memory.md R206: which writes are refused with WERR while BUSY = 1, and which are not. -/
def Obligations.BusyWritesAreRefused : Prop :=
  ∀ s : State, s.busy = true →
    (∀ off d, off % 4 = 0 →
      off = 0x008 ∨ off = 0x014 ∨ off = 0x018 ∨ (0x040 ≤ off ∧ off < 0x058) ∨ (0x400 ≤ off ∧ off < 0x440) ∨
        (0x800 ≤ off ∧ off < 0xC00) →
      windowAccess s off (.wr32 d) = ({ s with werr := true }, .written)) ∧
    (∀ off d, (0x400 ≤ off ∧ off < 0x440) ∨ (0x800 ≤ off ∧ off < 0xC00) →
      windowAccess s off (.wr8 d) = ({ s with werr := true }, .written)) ∧
    (∀ d : Word32, d.getLsbD 1 = false →
      windowAccess s 0x004 (.wr32 d) = ({ s with ie := d.getLsbD 0 }, .written)) ∧
    (∀ d : Word32, d.getLsbD 1 = true →
      windowAccess s 0x004 (.wr32 d) = (s.softReset, .written)) ∧
    (∀ d : Word32,
      windowAccess s 0x00C (.wr32 d) =
        ({ s with done := s.done && !d.getLsbD 1, werr := s.werr && !d.getLsbD 4 }, .written)) ∧
    (∀ off d, off < 0x2000 → off % 4 = 0 →
      off = 0x000 ∨ off = 0x010 ∨ off = 0x01C ∨ (0x020 ≤ off ∧ off < 0x040) ∨ (0x058 ≤ off ∧ off < 0x400) ∨
        (0x440 ≤ off ∧ off < 0x800) ∨ 0xC00 ≤ off →
      windowAccess s off (.wr32 d) = (s, .written)) ∧
    (∀ off d, (0x440 ≤ off ∧ off < 0x480) ∨ (0x1000 ≤ off ∧ off < 0x1800) →
      windowAccess s off (.wr8 d) = (s, .written))

/-- 20_memory.md R207: reserved offsets read 0 and ignore writes; read-only registers and buffers ignore writes; the
reserved bits of CTRL, STATUS and ERR read 0. -/
def Obligations.ReservedAndReadOnlyTargets : Prop :=
  ∀ s : State,
    (∀ off, off < 0x2000 → off % 4 = 0 →
      (0x024 ≤ off ∧ off < 0x040) ∨ (0x080 ≤ off ∧ off < 0x400) ∨ (0x480 ≤ off ∧ off < 0x800) ∨
        (0xC00 ≤ off ∧ off < 0x1000) ∨ 0x1800 ≤ off →
      windowAccess s off .rd32 = (s, .data32 0) ∧ ∀ d, windowAccess s off (.wr32 d) = (s, .written)) ∧
    (∀ off d, off % 4 = 0 →
      off = 0x000 ∨ off = 0x010 ∨ off = 0x01C ∨ off = 0x020 ∨ (0x058 ≤ off ∧ off < 0x080) ∨
        (0x440 ≤ off ∧ off < 0x480) ∨ (0x1000 ≤ off ∧ off < 0x1800) →
      windowAccess s off (.wr32 d) = (s, .written)) ∧
    (∀ off d, (0x440 ≤ off ∧ off < 0x480) ∨ (0x1000 ≤ off ∧ off < 0x1800) →
      windowAccess s off (.wr8 d) = (s, .written)) ∧
    (∀ w, windowAccess s 0x004 .rd32 = (s, .data32 w) → w.toNat < 2) ∧
    (∀ w, windowAccess s 0x00C .rd32 = (s, .data32 w) → w.toNat < 32) ∧
    (∀ w, windowAccess s 0x010 .rd32 = (s, .data32 w) → w.toNat < 16) ∧
    (∀ d : Word32, d.getLsbD 1 = false → d.getLsbD 4 = false → windowAccess s 0x00C (.wr32 d) = (s, .written)) ∧
    (∀ d : Word32, d.getLsbD 1 = false → d.getLsbD 0 = s.ie → windowAccess s 0x004 (.wr32 d) = (s, .written))

/-- 20_memory.md R208, R216: a read changes no state, whatever it reads, so reading again returns the same. That this holds
also of a buffer byte that holds no value (93_implementation_defined.md I1: any value) is the model's choice (log 5). -/
def Obligations.ReadsHaveNoSideEffects : Prop :=
  (∀ (s : State) (a : BusAccess), a.op.isRead = true → (busAccess s a).1 = s) ∧
  (∀ (s t : State) (a : BusAccess) (ts : List Turn), s.turns = .host a :: ts → a.op.isRead = true →
    step s = .next t → t = { s with turns := ts, resp := t.resp } ∧ (busAccess t a).2 = t.resp)

/-- 20_memory.md R204, R216, 10_state.md R114 to R117: a host read of a buffer byte that holds a value returns it, a 32-bit
access to a buffer moves its four bytes in little-endian order, mixed widths agree, and a 64-bit register is read, and OP0,
OP1 and OP2 are written, as a low word at its offset and a high word at offset + 4. That mixed widths agree also on a byte
that holds no value is the model's choice (log 5). -/
def Obligations.WordsAreLittleEndian : Prop :=
  (∀ (s : State) (b : Buf) (k : Nat) (v : Byte), k < b.size → s.byte b k = some v →
    windowAccess s (b.start + k) .rd8 = (s, .data8 v)) ∧
  (∀ (s : State) (b : Buf) (k : Nat) (v0 v1 v2 v3 : Byte), k < b.size → k % 4 = 0 →
    s.byte b k = some v0 → s.byte b (k + 1) = some v1 → s.byte b (k + 2) = some v2 → s.byte b (k + 3) = some v3 →
    ∃ w : Word32, windowAccess s (b.start + k) .rd32 = (s, .data32 w) ∧
      w.extractLsb' 0 8 = v0 ∧ w.extractLsb' 8 8 = v1 ∧ w.extractLsb' 16 8 = v2 ∧ w.extractLsb' 24 8 = v3) ∧
  (∀ (s : State) (off j : Nat) (w : Word32), off % 4 = 0 → inBuffer off = true → j < 4 →
    windowAccess s off .rd32 = (s, .data32 w) →
    windowAccess s (off + j) .rd8 = (s, .data8 (w.extractLsb' (8 * j) 8))) ∧
  (∀ (s : State) (off : Nat) (w : Word32), off % 4 = 0 → s.busy = false →
    (0x400 ≤ off ∧ off < 0x440) ∨ (0x800 ≤ off ∧ off < 0xC00) →
    ∃ t, windowAccess s off (.wr32 w) = (t, .written) ∧ t = { s with mem := t.mem } ∧
      (∀ j, j < 4 → Memory.read t.mem (off + j) = some (w.extractLsb' (8 * j) 8)) ∧
      SameMemoryOutside (fun x => off ≤ x ∧ x < off + 4) s t) ∧
  (∀ (s : State) (off : Nat) (b : Byte), s.busy = false →
    (0x400 ≤ off ∧ off < 0x440) ∨ (0x800 ≤ off ∧ off < 0xC00) →
    ∃ t, windowAccess s off (.wr8 b) = (t, .written) ∧ t = { s with mem := t.mem } ∧
      Memory.read t.mem off = some b ∧ SameMemoryOutside (fun x => x = off) s t) ∧
  (∀ (s : State) (r : Reg64),
    windowAccess s r.offset .rd32 = (s, .data32 ((s.get64 r).extractLsb' 0 32)) ∧
    windowAccess s (r.offset + 4) .rd32 = (s, .data32 ((s.get64 r).extractLsb' 32 32))) ∧
  (∀ (s : State) (r : Reg64) (d : Word32), s.busy = false → r = .op0 ∨ r = .op1 ∨ r = .op2 →
    ∃ t t', windowAccess s r.offset (.wr32 d) = (t, .written) ∧ windowAccess s (r.offset + 4) (.wr32 d) = (t', .written) ∧
      (t.get64 r).extractLsb' 0 32 = d ∧ (t.get64 r).extractLsb' 32 32 = (s.get64 r).extractLsb' 32 32 ∧
      (t'.get64 r).extractLsb' 32 32 = d ∧ (t'.get64 r).extractLsb' 0 32 = (s.get64 r).extractLsb' 0 32 ∧
      ∀ x ∈ [t, t'], x = { s with op0 := x.op0, op1 := x.op1, op2 := x.op2 } ∧ ∀ q, q ≠ r → x.get64 q = s.get64 q)

/-- 10_state.md R110, 30_encoding.md R309: `SET64` of OP0, OP1 or OP2 on an idle block is two word writes that leave the
value mod 2^64 in the register and change nothing else. -/
def Obligations.Set64StoresTheWholeOperand : Prop :=
  ∀ (s : State) (r : Reg64) (z : Int), s.busy = false → r = .op0 ∨ r = .op1 ∨ r = .op2 →
    ∃ d e : Word32, expandSet64 r (.imm z) = [.wr32 r.offset (.num d), .wr32 (r.offset + 4) (.num e)] ∧
      ∃ t, (windowAccess (windowAccess s r.offset (.wr32 d)).1 (r.offset + 4) (.wr32 e)).1 = t ∧
        ((t.get64 r).toNat : Int) = z % 2 ^ 64 ∧
        t = { s with op0 := t.op0, op1 := t.op1, op2 := t.op2 } ∧ ∀ q, q ≠ r → t.get64 q = s.get64 q

/-- 30_encoding.md R307, R309: wherever a `WAIT` stands, alone or in a `RUN`, after statements that do not hold its fresh
label, its branch leaves the loop exactly when the STATUS it read has DONE = 1, and its read changes nothing of the block
but the model's turns and response. That the branch goes back to this loop also where a later statement holds its label
again is the model's choice (log 15: a label that stands twice is its first place). -/
def Obligations.WaitLeavesOnDone : Prop :=
  ∀ (h : HostSystem) (k : Nat) (pre rest : List HostStmt),
    h.script = pre ++ expandWait k ++ rest → HostStmt.label (.fresh k) ∉ pre → h.at_ = pre.length + 1 →
    ∃ h1 h2, h.step false = .next h1 ∧ h1.step false = .next h2 ∧
      h1.block = { h.block with turns := [], resp := .data32 h.block.statusWord } ∧ h2.block = h1.block ∧
      (h.block.done = true → h2.at_ = pre.length + 3) ∧ (h.block.done = false → h2.at_ = pre.length)

/-- 30_encoding.md R309: `GET64` of any 64-bit register is two word reads after which `$v` is `{$v.hi, $v.lo}`, the
register's value; no other variable changes, and nothing of the block but the model's turns and response. -/
def Obligations.Get64JoinsTheHalves : Prop :=
  ∀ (h : HostSystem) (k : Nat) (r : Reg64) (v : String) (pre rest : List HostStmt),
    h.script = pre ++ expandLine k (.get64 r v) ++ rest → h.at_ = pre.length →
    ∃ h1 h2, h.step false = .next h1 ∧ h1.step false = .next h2 ∧ h2.at_ = pre.length + 2 ∧
      h2.varValue (.whole v) = some (h.block.get64 r) ∧
      (∃ lo hi : Word32, h.block.get64 r = hi ++ lo ∧
        h2.varValue (.lo v) = some (lo.setWidth 64) ∧ h2.varValue (.hi v) = some (hi.setWidth 64)) ∧
      (∀ x : HostVar, x.name ≠ v → h2.varValue x = h.varValue x) ∧
      h2.block = { h.block with turns := [], resp := h2.block.resp }

/-- 10_state.md R101, R103, R105 to R109: what a 32-bit read of ID, CMD, ERR, IN_LEN, KEY_LEN, OUT_LEN and GRID gives in
every state. -/
def Obligations.RegistersReadTheirFields : Prop :=
  ∀ s : State,
    windowAccess s 0x000 .rd32 = (s, .data32 0x4D455831) ∧
    windowAccess s 0x008 .rd32 = (s, .data32 s.cmd) ∧
    (∃ w : Word32, windowAccess s 0x010 .rd32 = (s, .data32 w) ∧ w.toNat = s.errCode.toNat) ∧
    windowAccess s 0x014 .rd32 = (s, .data32 s.inLen) ∧
    windowAccess s 0x018 .rd32 = (s, .data32 s.keyLen) ∧
    windowAccess s 0x01C .rd32 = (s, .data32 s.outLen) ∧
    (∃ w : Word32, windowAccess s 0x020 .rd32 = (s, .data32 w) ∧
      w.extractLsb' 0 16 = s.nrows ∧ w.extractLsb' 16 16 = s.ncols)

/-- 10_state.md R106, R107: a 32-bit write of IN_LEN or KEY_LEN on an idle block stores all 32 bits, whatever their value,
and changes nothing else; the register reads back as written. -/
def Obligations.LengthRegistersStoreTheWord : Prop :=
  ∀ (s : State) (d : Word32), s.busy = false →
    windowAccess s 0x014 (.wr32 d) = ({ s with inLen := d }, .written) ∧
    windowAccess s 0x018 (.wr32 d) = ({ s with keyLen := d }, .written) ∧
    (windowAccess { s with inLen := d } 0x014 .rd32).2 = .data32 d ∧
    (windowAccess { s with keyLen := d } 0x018 .rd32).2 = .data32 d

/-- 10_state.md R102, 70_reset_and_hazards.md R801: a CTRL write with SRST = 1 is a soft reset, idle or busy: every register
at its reset value, the buffers kept. Without SRST it stores IE only. CTRL reads back IE alone. -/
def Obligations.ControlWriteStoresOrResets : Prop :=
  ∀ (s : State) (d : Word32),
    (d.getLsbD 1 = false → windowAccess s 0x004 (.wr32 d) = ({ s with ie := d.getLsbD 0 }, .written)) ∧
    (d.getLsbD 1 = true →
      windowAccess s 0x004 (.wr32 d) =
        ({ ie := false, cmd := 0, busy := false, done := false, errf := false, keyValid := false, werr := false,
           errCode := 0, inLen := 0, keyLen := 0, outLen := 0, nrows := 0, ncols := 0, op0 := 0, op1 := 0, op2 := 0,
           result := 0, keyN := 0, keyPhi := 0, keyE := 0, keyD := 0, mem := s.mem, turns := s.turns,
           resp := s.resp, powerEpoch := s.powerEpoch }, .written)) ∧
    windowAccess s 0x004 .rd32 = (s, .data32 (if s.ie then 1 else 0))

/-- 10_state.md R104: STATUS reads its five flags in bits 4 to 0, and a write clears DONE by bit 1 and WERR by bit 4 and
changes nothing else. -/
def Obligations.StatusReadsFlagsAndClearsByOne : Prop :=
  ∀ (s : State) (d : Word32),
    (∃ w : Word32, windowAccess s 0x00C .rd32 = (s, .data32 w) ∧
      w.getLsbD 0 = s.busy ∧ w.getLsbD 1 = s.done ∧ w.getLsbD 2 = s.errf ∧ w.getLsbD 3 = s.keyValid ∧
      w.getLsbD 4 = s.werr ∧ w.toNat < 32) ∧
    (∃ t, windowAccess s 0x00C (.wr32 d) = (t, .written) ∧ t = { s with done := t.done, werr := t.werr } ∧
      (t.done = true ↔ s.done = true ∧ d.getLsbD 1 = false) ∧
      (t.werr = true ↔ s.werr = true ∧ d.getLsbD 4 = false))

/-- 60_exceptions.md R710, 10_state.md R118: IRQ is IE and DONE: after a completion it is IE, an acknowledgement, an
acceptance and a soft reset drop it, and setting IE raises it at once while DONE = 1. -/
def Obligations.InterruptFollowsEnableAndDone : Prop :=
  ∀ s : State,
    (s.irq = true ↔ s.ie = true ∧ s.done = true) ∧
    (∀ i t, exec i s = .next t → t.irq = s.ie) ∧
    (∀ d : Word32, d.getLsbD 1 = true → (windowAccess s 0x00C (.wr32 d)).1.irq = false) ∧
    (∀ w : Word32, s.busy = false → (windowAccess s 0x008 (.wr32 w)).1.irq = false) ∧
    (∀ d : Word32, d.getLsbD 1 = true → (windowAccess s 0x004 (.wr32 d)).1.irq = false) ∧
    (windowAccess s 0x004 (.wr32 0x1)).1.irq = s.done ∧
    (windowAccess s 0x004 (.wr32 0x0)).1.irq = false ∧ (windowAccess s 0x004 (.wr32 0x0)).1.done = s.done

/-- 10_state.md R123, R101: what power-on reset leaves, register by register as the host reads it, and no buffer byte
holding a value; a soft reset leaves the same register values and keeps the buffers. -/
def Obligations.ResetValues : Prop :=
  (∀ off, off % 4 = 0 → off < 0x080 →
    windowAccess State.reset off .rd32 = (State.reset, .data32 (if off = 0 then 0x4D455831 else 0))) ∧
  (∀ (b : Buf) (k : Nat), State.reset.byte b k = none) ∧
  State.reset.irq = false ∧ State.reset.busy = false ∧ State.reset.keyValid = false ∧
  (∀ (s : State) (off : Nat) (d : Word32), d.getLsbD 1 = true → off % 4 = 0 → off < 0x080 →
    ∃ t, windowAccess s 0x004 (.wr32 d) = (t, .written) ∧
      windowAccess t off .rd32 = (t, .data32 (if off = 0 then 0x4D455831 else 0)) ∧
      ∀ (b : Buf) (k : Nat), t.byte b k = s.byte b k)

/-! ## Whole-machine rules -/

/-- 20_memory.md R209: RESULT, the KEY registers, OUT_LEN, GRID and the output buffers change only at a command's
completion, or by a reset. -/
def Obligations.OutputsChangeOnlyAtCompletion : Prop :=
  ∀ (s t : State) (a : BusAccess) (ts : List Turn),
    s.turns = .host a :: ts → isSoftReset a = false → step s = .next t →
    t.result = s.result ∧ t.keyN = s.keyN ∧ t.keyPhi = s.keyPhi ∧ t.keyE = s.keyE ∧ t.keyD = s.keyD ∧
    t.outLen = s.outLen ∧ t.nrows = s.nrows ∧ t.ncols = s.ncols ∧ t.errCode = s.errCode ∧ t.errf = s.errf ∧
    (∀ k, k < 2048 → t.byte .outBuf k = s.byte .outBuf k) ∧ (∀ k, k < 64 → t.byte .rankBuf k = s.byte .rankBuf k)

/-- 10_state.md R120: who sets each flag, and who clears it, over every step of the machine, event by event as its table
lists them. That an exhausted list of turns is the engine's turn is the model's choice (log 2). -/
def Obligations.FlagsChangeOnlyAsListed : Prop :=
  ∀ s t : State, step s = .next t →
    (s.busy = false → t.busy = true → ∃ w, s.TakesWrite 0x008 w ∧ t.cmd = w) ∧
    (s.busy = true → t.busy = false → (s.TakesEngine ∧ t.done = true) ∨ s.TakesReset) ∧
    (s.done = false → t.done = true → s.busy = true ∧ t.busy = false ∧ s.TakesEngine) ∧
    (s.done = true → t.done = false →
      (s.busy = false ∧ t.busy = true ∧ ∃ w, s.TakesWrite 0x008 w) ∨
      (∃ d, s.TakesWrite 0x00C d ∧ d.getLsbD 1 = true) ∨ s.TakesReset) ∧
    (s.errf = false → t.errf = true → s.busy = true ∧ t.busy = false ∧ t.errCode ≠ 0 ∧ s.TakesEngine) ∧
    (s.errf = true → t.errf = false →
      (s.busy = true ∧ t.busy = false ∧ t.done = true ∧ t.errCode = 0 ∧ s.TakesEngine) ∨ s.TakesReset) ∧
    (s.keyValid = false → t.keyValid = true →
      s.busy = true ∧ s.cmd = 0x00000004 ∧ t.errCode = 0 ∧ t.busy = false ∧ s.TakesEngine) ∧
    (s.keyValid = true → t.keyValid = false →
      (s.TakesWrite 0x008 0x00000004 ∧ s.busy = false) ∨ s.TakesReset) ∧
    (s.werr = false → t.werr = true → s.busy = true ∧ ∃ a ts, s.turns = .host a :: ts ∧ a.op.isRead = false) ∧
    (s.werr = true → t.werr = false → (∃ d, s.TakesWrite 0x00C d ∧ d.getLsbD 4 = true) ∨ s.TakesReset)

/-- Canonical memories (the model's form, guided by 93_implementation_defined.md I1): two memories in canonical form that
read alike at every offset are equal. -/
def Obligations.CanonicalMemoriesAreEqualWhenReadAlike : Prop :=
  ∀ m m' : Memory, Memory.wf m = true → Memory.wf m' = true → (∀ x, Memory.read m x = Memory.read m' x) → m = m'

/-- The invariant holds right after reset. -/
def Obligations.ResetMeetsTheInvariant : Prop := State.reset.Inv

/-- Every step keeps the invariant: canonical memory inside the buffers; ERR.CODE ≤ 6 and ERRF = (CODE ≠ 0), BUSY and DONE
never together, KEY_VALID = 0 while RSAKEYGEN is pending; KEY_VALID = 1 only over a good key; OUT_LEN ≤ 1087 uppercase
letters in OUT_BUF; NROWS ≤ 1024, NCOLS ≤ 64 and ranks below NCOLS in RANK_BUF. -/
def Obligations.StepKeepsTheInvariant : Prop :=
  ∀ s t : State, s.Inv → step s = .next t → t.Inv
end

