-- ==== Sys2Proof/Laws/Memory.lean ====
section
/-! SUPPORT. The laws of the buffers' memory: read after write, what a run of writes leaves, and the canonical form. -/

namespace Sys2Proof.Machine.Memory

@[simp] theorem read_nil (a : Nat) : Memory.read [] a = none := rfl

@[simp] theorem read_write_self (m : Memory) (a : Nat) (b : Byte) : (m.write a b).read a = some b := by
  induction m with
  | nil => simp [write, read]
  | cons c m ih =>
    obtain ⟨k, v⟩ := c
    rw [write]
    split
    · simp [read]
    · split
      · simp [read]
      · next h => rw [read, if_neg (Ne.symm h), ih]

theorem read_write_other (m : Memory) {a x : Nat} (b : Byte) (h : x ≠ a) : (m.write a b).read x = m.read x := by
  induction m with
  | nil => simp [write, read, Ne.symm h]
  | cons c m ih =>
    obtain ⟨k, v⟩ := c
    rw [write]
    split
    · rw [read, if_neg (Ne.symm h)]
    · split
      · next e => subst e; simp [read, Ne.symm h]
      · simp only [read, ih]

theorem read_write (m : Memory) (a x : Nat) (b : Byte) :
    (m.write a b).read x = if x = a then some b else m.read x := by
  by_cases h : x = a
  · subst h; simp
  · simp [h, read_write_other m b h]

/-- What a run of writes leaves at every offset. -/
theorem read_writeRun (m : Memory) (a : Nat) (bs : List Byte) (x : Nat) :
    (m.writeRun a bs).read x = if a ≤ x ∧ x < a + bs.length then bs[x - a]? else m.read x := by
  induction bs generalizing m a with
  | nil => simp [writeRun, show ¬(a ≤ x ∧ x < a) by omega]
  | cons b bs ih =>
    rw [writeRun, ih, read_write]
    by_cases h : x = a
    · subst h; simp
    · by_cases h2 : a + 1 ≤ x ∧ x < a + 1 + bs.length
      · have : x - a = (x - (a + 1)) + 1 := by omega
        rw [if_pos h2, if_pos (by simp; omega), this, List.getElem?_cons_succ]
      · rw [if_neg h2, if_neg h, if_neg (by simp; omega)]

theorem read_writeRun_inside (m : Memory) (a : Nat) (bs : List Byte) {i : Nat} (h : i < bs.length) :
    (m.writeRun a bs).read (a + i) = some bs[i] := by
  rw [read_writeRun, if_pos ⟨by omega, by omega⟩]
  simp [h]

theorem read_writeRun_outside (m : Memory) (a : Nat) (bs : List Byte) {x : Nat} (h : x < a ∨ a + bs.length ≤ x) :
    (m.writeRun a bs).read x = m.read x := by
  rw [read_writeRun, if_neg (by omega)]

/-- A run of reads succeeds exactly when each byte has a value, and lists those values in order. -/
theorem readRun_eq_some {m : Memory} {a n : Nat} {bs : List Byte} :
    m.readRun a n = some bs ↔ bs.length = n ∧ ∀ i, i < n → m.read (a + i) = bs[i]? := by
  induction n generalizing a bs with
  | zero => cases bs <;> simp [readRun]
  | succ n ih =>
    constructor
    · intro h
      rw [readRun] at h
      split at h
      · simp at h
      · next b hb =>
        split at h
        · simp at h
        · next bs' hbs =>
          cases h
          obtain ⟨hl, hr⟩ := ih.1 hbs
          refine ⟨by simp [hl], fun i hi => ?_⟩
          cases i with
          | zero => simpa using hb
          | succ i =>
            have := hr i (by omega)
            rw [show a + (i + 1) = a + 1 + i by omega]
            simpa using this
    · rintro ⟨hl, hr⟩
      cases bs with
      | nil => simp at hl
      | cons b bs =>
        have h0 : m.read a = some b := by simpa using hr 0 (by omega)
        have h1 : m.readRun (a + 1) n = some bs := by
          refine ih.2 ⟨by simpa using hl, fun i hi => ?_⟩
          have := hr (i + 1) (by omega)
          rw [show a + (i + 1) = a + 1 + i by omega] at this
          simpa using this
        simp [readRun, h0, h1]

/-- A run of reads depends only on the bytes it reads. -/
theorem readRun_congr {m m' : Memory} {a n : Nat} (h : ∀ i, i < n → m.read (a + i) = m'.read (a + i)) :
    m.readRun a n = m'.readRun a n := by
  induction n generalizing a with
  | zero => rfl
  | succ n ih =>
    have h0 := h 0 (by omega)
    have h1 : m.readRun (a + 1) n = m'.readRun (a + 1) n :=
      ih fun i hi => by
        have := h (i + 1) (by omega)
        rwa [show a + (i + 1) = a + 1 + i by omega] at this
    simp only [Nat.add_zero] at h0
    simp only [readRun, h0, h1]

theorem risesAbove_mono {m : Memory} {lo hi : Nat} (h : lo ≤ hi) (hm : m.risesAbove hi = true) :
    m.risesAbove lo = true := by
  cases m with
  | nil => rfl
  | cons c m =>
    simp only [risesAbove, Bool.and_eq_true, decide_eq_true_eq] at hm ⊢
    exact ⟨by omega, hm.2⟩

theorem risesAbove_write {m : Memory} {lo a : Nat} (b : Byte) (h : m.risesAbove lo = true) (ha : lo < a) :
    (m.write a b).risesAbove lo = true := by
  induction m generalizing lo with
  | nil => simp [write, risesAbove, ha]
  | cons c m ih =>
    obtain ⟨k, v⟩ := c
    simp only [risesAbove, Bool.and_eq_true, decide_eq_true_eq] at h
    rw [write]
    split
    · next hk => simp [risesAbove, ha, hk, h.2]
    · split
      · next hk => subst hk; simp [risesAbove, ha, h.2]
      · simp only [risesAbove, Bool.and_eq_true, decide_eq_true_eq]
        exact ⟨h.1, ih h.2 (by omega)⟩

/-- Writing a byte keeps the canonical form. -/
theorem wf_write {m : Memory} (a : Nat) (b : Byte) (h : m.wf = true) : (m.write a b).wf = true := by
  cases m with
  | nil => rfl
  | cons c m =>
    obtain ⟨k, v⟩ := c
    rw [write]
    split
    · next hk => simpa [wf, risesAbove, hk] using h
    · split
      · next hk => subst hk; simpa [wf] using h
      · exact risesAbove_write b h (by omega)

/-- A run of writes keeps the canonical form. -/
theorem wf_writeRun {m : Memory} (a : Nat) (bs : List Byte) (h : m.wf = true) : (m.writeRun a bs).wf = true := by
  induction bs generalizing m a with
  | nil => exact h
  | cons b bs ih => exact ih (a + 1) (wf_write a b h)

theorem read_eq_none_of_risesAbove {m : Memory} {lo a : Nat} (h : m.risesAbove lo = true) (ha : a ≤ lo) :
    m.read a = none := by
  induction m generalizing lo with
  | nil => rfl
  | cons c m ih =>
    obtain ⟨k, v⟩ := c
    simp only [risesAbove, Bool.and_eq_true, decide_eq_true_eq] at h
    rw [read, if_neg (by omega), ih h.2 (by omega)]

/-- The memory of the state after reset has the canonical form. -/
theorem wf_reset : Memory.wf State.reset.mem = true := rfl

end Sys2Proof.Machine.Memory
end

