-- ==== Sys2Proof/Laws/State.lean ====
section
/-! SUPPORT. One lemma per field per update of the state, so that no later proof unfolds a record update. -/

namespace Sys2Proof.Machine.State

variable (s : State)

/-! `complete` -/

@[simp] theorem complete_ie (o : Option CmdError) : (s.complete o).ie = s.ie := rfl
@[simp] theorem complete_cmd (o : Option CmdError) : (s.complete o).cmd = s.cmd := rfl
@[simp] theorem complete_busy (o : Option CmdError) : (s.complete o).busy = false := rfl
@[simp] theorem complete_done (o : Option CmdError) : (s.complete o).done = true := rfl
@[simp] theorem complete_errf (o : Option CmdError) : (s.complete o).errf = o.isSome := rfl
@[simp] theorem complete_keyValid (o : Option CmdError) : (s.complete o).keyValid = s.keyValid := rfl
@[simp] theorem complete_werr (o : Option CmdError) : (s.complete o).werr = s.werr := rfl
@[simp] theorem complete_errCode (o : Option CmdError) : (s.complete o).errCode = outcomeCode o := rfl
@[simp] theorem complete_inLen (o : Option CmdError) : (s.complete o).inLen = s.inLen := rfl
@[simp] theorem complete_keyLen (o : Option CmdError) : (s.complete o).keyLen = s.keyLen := rfl
@[simp] theorem complete_outLen (o : Option CmdError) : (s.complete o).outLen = s.outLen := rfl
@[simp] theorem complete_nrows (o : Option CmdError) : (s.complete o).nrows = s.nrows := rfl
@[simp] theorem complete_ncols (o : Option CmdError) : (s.complete o).ncols = s.ncols := rfl
@[simp] theorem complete_op0 (o : Option CmdError) : (s.complete o).op0 = s.op0 := rfl
@[simp] theorem complete_op1 (o : Option CmdError) : (s.complete o).op1 = s.op1 := rfl
@[simp] theorem complete_op2 (o : Option CmdError) : (s.complete o).op2 = s.op2 := rfl
@[simp] theorem complete_result (o : Option CmdError) : (s.complete o).result = s.result := rfl
@[simp] theorem complete_keyN (o : Option CmdError) : (s.complete o).keyN = s.keyN := rfl
@[simp] theorem complete_keyPhi (o : Option CmdError) : (s.complete o).keyPhi = s.keyPhi := rfl
@[simp] theorem complete_keyE (o : Option CmdError) : (s.complete o).keyE = s.keyE := rfl
@[simp] theorem complete_keyD (o : Option CmdError) : (s.complete o).keyD = s.keyD := rfl
@[simp] theorem complete_mem (o : Option CmdError) : (s.complete o).mem = s.mem := rfl
@[simp] theorem complete_turns (o : Option CmdError) : (s.complete o).turns = s.turns := rfl
@[simp] theorem complete_resp (o : Option CmdError) : (s.complete o).resp = s.resp := rfl
@[simp] theorem complete_powerEpoch (o : Option CmdError) : (s.complete o).powerEpoch = s.powerEpoch := rfl

/-! `writeStatus` -/

@[simp] theorem writeStatus_ie (d : Word32) : (s.writeStatus d).ie = s.ie := rfl
@[simp] theorem writeStatus_cmd (d : Word32) : (s.writeStatus d).cmd = s.cmd := rfl
@[simp] theorem writeStatus_busy (d : Word32) : (s.writeStatus d).busy = s.busy := rfl
@[simp] theorem writeStatus_done (d : Word32) : (s.writeStatus d).done = (s.done && !d.getLsbD 1) := rfl
@[simp] theorem writeStatus_errf (d : Word32) : (s.writeStatus d).errf = s.errf := rfl
@[simp] theorem writeStatus_keyValid (d : Word32) : (s.writeStatus d).keyValid = s.keyValid := rfl
@[simp] theorem writeStatus_werr (d : Word32) : (s.writeStatus d).werr = (s.werr && !d.getLsbD 4) := rfl
@[simp] theorem writeStatus_errCode (d : Word32) : (s.writeStatus d).errCode = s.errCode := rfl
@[simp] theorem writeStatus_inLen (d : Word32) : (s.writeStatus d).inLen = s.inLen := rfl
@[simp] theorem writeStatus_keyLen (d : Word32) : (s.writeStatus d).keyLen = s.keyLen := rfl
@[simp] theorem writeStatus_outLen (d : Word32) : (s.writeStatus d).outLen = s.outLen := rfl
@[simp] theorem writeStatus_nrows (d : Word32) : (s.writeStatus d).nrows = s.nrows := rfl
@[simp] theorem writeStatus_ncols (d : Word32) : (s.writeStatus d).ncols = s.ncols := rfl
@[simp] theorem writeStatus_op0 (d : Word32) : (s.writeStatus d).op0 = s.op0 := rfl
@[simp] theorem writeStatus_op1 (d : Word32) : (s.writeStatus d).op1 = s.op1 := rfl
@[simp] theorem writeStatus_op2 (d : Word32) : (s.writeStatus d).op2 = s.op2 := rfl
@[simp] theorem writeStatus_result (d : Word32) : (s.writeStatus d).result = s.result := rfl
@[simp] theorem writeStatus_keyN (d : Word32) : (s.writeStatus d).keyN = s.keyN := rfl
@[simp] theorem writeStatus_keyPhi (d : Word32) : (s.writeStatus d).keyPhi = s.keyPhi := rfl
@[simp] theorem writeStatus_keyE (d : Word32) : (s.writeStatus d).keyE = s.keyE := rfl
@[simp] theorem writeStatus_keyD (d : Word32) : (s.writeStatus d).keyD = s.keyD := rfl
@[simp] theorem writeStatus_mem (d : Word32) : (s.writeStatus d).mem = s.mem := rfl
@[simp] theorem writeStatus_turns (d : Word32) : (s.writeStatus d).turns = s.turns := rfl
@[simp] theorem writeStatus_resp (d : Word32) : (s.writeStatus d).resp = s.resp := rfl
@[simp] theorem writeStatus_powerEpoch (d : Word32) : (s.writeStatus d).powerEpoch = s.powerEpoch := rfl

/-! `refuseWrite` -/

@[simp] theorem refuseWrite_ie : (s.refuseWrite).ie = s.ie := rfl
@[simp] theorem refuseWrite_cmd : (s.refuseWrite).cmd = s.cmd := rfl
@[simp] theorem refuseWrite_busy : (s.refuseWrite).busy = s.busy := rfl
@[simp] theorem refuseWrite_done : (s.refuseWrite).done = s.done := rfl
@[simp] theorem refuseWrite_errf : (s.refuseWrite).errf = s.errf := rfl
@[simp] theorem refuseWrite_keyValid : (s.refuseWrite).keyValid = s.keyValid := rfl
@[simp] theorem refuseWrite_werr : (s.refuseWrite).werr = true := rfl
@[simp] theorem refuseWrite_errCode : (s.refuseWrite).errCode = s.errCode := rfl
@[simp] theorem refuseWrite_inLen : (s.refuseWrite).inLen = s.inLen := rfl
@[simp] theorem refuseWrite_keyLen : (s.refuseWrite).keyLen = s.keyLen := rfl
@[simp] theorem refuseWrite_outLen : (s.refuseWrite).outLen = s.outLen := rfl
@[simp] theorem refuseWrite_nrows : (s.refuseWrite).nrows = s.nrows := rfl
@[simp] theorem refuseWrite_ncols : (s.refuseWrite).ncols = s.ncols := rfl
@[simp] theorem refuseWrite_op0 : (s.refuseWrite).op0 = s.op0 := rfl
@[simp] theorem refuseWrite_op1 : (s.refuseWrite).op1 = s.op1 := rfl
@[simp] theorem refuseWrite_op2 : (s.refuseWrite).op2 = s.op2 := rfl
@[simp] theorem refuseWrite_result : (s.refuseWrite).result = s.result := rfl
@[simp] theorem refuseWrite_keyN : (s.refuseWrite).keyN = s.keyN := rfl
@[simp] theorem refuseWrite_keyPhi : (s.refuseWrite).keyPhi = s.keyPhi := rfl
@[simp] theorem refuseWrite_keyE : (s.refuseWrite).keyE = s.keyE := rfl
@[simp] theorem refuseWrite_keyD : (s.refuseWrite).keyD = s.keyD := rfl
@[simp] theorem refuseWrite_mem : (s.refuseWrite).mem = s.mem := rfl
@[simp] theorem refuseWrite_turns : (s.refuseWrite).turns = s.turns := rfl
@[simp] theorem refuseWrite_resp : (s.refuseWrite).resp = s.resp := rfl
@[simp] theorem refuseWrite_powerEpoch : (s.refuseWrite).powerEpoch = s.powerEpoch := rfl

/-! `accept` -/

@[simp] theorem accept_ie (w : Word32) : (s.accept w).ie = s.ie := rfl
@[simp] theorem accept_cmd (w : Word32) : (s.accept w).cmd = w := rfl
@[simp] theorem accept_busy (w : Word32) : (s.accept w).busy = true := rfl
@[simp] theorem accept_done (w : Word32) : (s.accept w).done = false := rfl
@[simp] theorem accept_errf (w : Word32) : (s.accept w).errf = s.errf := rfl
@[simp] theorem accept_keyValid (w : Word32) : (s.accept w).keyValid = (s.keyValid && w != 0x00000004) := rfl
@[simp] theorem accept_werr (w : Word32) : (s.accept w).werr = s.werr := rfl
@[simp] theorem accept_errCode (w : Word32) : (s.accept w).errCode = s.errCode := rfl
@[simp] theorem accept_inLen (w : Word32) : (s.accept w).inLen = s.inLen := rfl
@[simp] theorem accept_keyLen (w : Word32) : (s.accept w).keyLen = s.keyLen := rfl
@[simp] theorem accept_outLen (w : Word32) : (s.accept w).outLen = s.outLen := rfl
@[simp] theorem accept_nrows (w : Word32) : (s.accept w).nrows = s.nrows := rfl
@[simp] theorem accept_ncols (w : Word32) : (s.accept w).ncols = s.ncols := rfl
@[simp] theorem accept_op0 (w : Word32) : (s.accept w).op0 = s.op0 := rfl
@[simp] theorem accept_op1 (w : Word32) : (s.accept w).op1 = s.op1 := rfl
@[simp] theorem accept_op2 (w : Word32) : (s.accept w).op2 = s.op2 := rfl
@[simp] theorem accept_result (w : Word32) : (s.accept w).result = s.result := rfl
@[simp] theorem accept_keyN (w : Word32) : (s.accept w).keyN = s.keyN := rfl
@[simp] theorem accept_keyPhi (w : Word32) : (s.accept w).keyPhi = s.keyPhi := rfl
@[simp] theorem accept_keyE (w : Word32) : (s.accept w).keyE = s.keyE := rfl
@[simp] theorem accept_keyD (w : Word32) : (s.accept w).keyD = s.keyD := rfl
@[simp] theorem accept_mem (w : Word32) : (s.accept w).mem = s.mem := rfl
@[simp] theorem accept_turns (w : Word32) : (s.accept w).turns = s.turns := rfl
@[simp] theorem accept_resp (w : Word32) : (s.accept w).resp = s.resp := rfl
@[simp] theorem accept_powerEpoch (w : Word32) : (s.accept w).powerEpoch = s.powerEpoch := rfl

/-! `putBytes` -/

@[simp] theorem putBytes_ie (b : Buf) (bs : List Byte) : (s.putBytes b bs).ie = s.ie := rfl
@[simp] theorem putBytes_cmd (b : Buf) (bs : List Byte) : (s.putBytes b bs).cmd = s.cmd := rfl
@[simp] theorem putBytes_busy (b : Buf) (bs : List Byte) : (s.putBytes b bs).busy = s.busy := rfl
@[simp] theorem putBytes_done (b : Buf) (bs : List Byte) : (s.putBytes b bs).done = s.done := rfl
@[simp] theorem putBytes_errf (b : Buf) (bs : List Byte) : (s.putBytes b bs).errf = s.errf := rfl
@[simp] theorem putBytes_keyValid (b : Buf) (bs : List Byte) : (s.putBytes b bs).keyValid = s.keyValid := rfl
@[simp] theorem putBytes_werr (b : Buf) (bs : List Byte) : (s.putBytes b bs).werr = s.werr := rfl
@[simp] theorem putBytes_errCode (b : Buf) (bs : List Byte) : (s.putBytes b bs).errCode = s.errCode := rfl
@[simp] theorem putBytes_inLen (b : Buf) (bs : List Byte) : (s.putBytes b bs).inLen = s.inLen := rfl
@[simp] theorem putBytes_keyLen (b : Buf) (bs : List Byte) : (s.putBytes b bs).keyLen = s.keyLen := rfl
@[simp] theorem putBytes_outLen (b : Buf) (bs : List Byte) : (s.putBytes b bs).outLen = s.outLen := rfl
@[simp] theorem putBytes_nrows (b : Buf) (bs : List Byte) : (s.putBytes b bs).nrows = s.nrows := rfl
@[simp] theorem putBytes_ncols (b : Buf) (bs : List Byte) : (s.putBytes b bs).ncols = s.ncols := rfl
@[simp] theorem putBytes_op0 (b : Buf) (bs : List Byte) : (s.putBytes b bs).op0 = s.op0 := rfl
@[simp] theorem putBytes_op1 (b : Buf) (bs : List Byte) : (s.putBytes b bs).op1 = s.op1 := rfl
@[simp] theorem putBytes_op2 (b : Buf) (bs : List Byte) : (s.putBytes b bs).op2 = s.op2 := rfl
@[simp] theorem putBytes_result (b : Buf) (bs : List Byte) : (s.putBytes b bs).result = s.result := rfl
@[simp] theorem putBytes_keyN (b : Buf) (bs : List Byte) : (s.putBytes b bs).keyN = s.keyN := rfl
@[simp] theorem putBytes_keyPhi (b : Buf) (bs : List Byte) : (s.putBytes b bs).keyPhi = s.keyPhi := rfl
@[simp] theorem putBytes_keyE (b : Buf) (bs : List Byte) : (s.putBytes b bs).keyE = s.keyE := rfl
@[simp] theorem putBytes_keyD (b : Buf) (bs : List Byte) : (s.putBytes b bs).keyD = s.keyD := rfl
@[simp] theorem putBytes_mem (b : Buf) (bs : List Byte) : (s.putBytes b bs).mem = Memory.writeRun s.mem b.start bs := rfl
@[simp] theorem putBytes_turns (b : Buf) (bs : List Byte) : (s.putBytes b bs).turns = s.turns := rfl
@[simp] theorem putBytes_resp (b : Buf) (bs : List Byte) : (s.putBytes b bs).resp = s.resp := rfl
@[simp] theorem putBytes_powerEpoch (b : Buf) (bs : List Byte) : (s.putBytes b bs).powerEpoch = s.powerEpoch := rfl

/-! `putResult` -/

@[simp] theorem putResult_ie (v : Nat) : (s.putResult v).ie = s.ie := rfl
@[simp] theorem putResult_cmd (v : Nat) : (s.putResult v).cmd = s.cmd := rfl
@[simp] theorem putResult_busy (v : Nat) : (s.putResult v).busy = s.busy := rfl
@[simp] theorem putResult_done (v : Nat) : (s.putResult v).done = s.done := rfl
@[simp] theorem putResult_errf (v : Nat) : (s.putResult v).errf = s.errf := rfl
@[simp] theorem putResult_keyValid (v : Nat) : (s.putResult v).keyValid = s.keyValid := rfl
@[simp] theorem putResult_werr (v : Nat) : (s.putResult v).werr = s.werr := rfl
@[simp] theorem putResult_errCode (v : Nat) : (s.putResult v).errCode = s.errCode := rfl
@[simp] theorem putResult_inLen (v : Nat) : (s.putResult v).inLen = s.inLen := rfl
@[simp] theorem putResult_keyLen (v : Nat) : (s.putResult v).keyLen = s.keyLen := rfl
@[simp] theorem putResult_outLen (v : Nat) : (s.putResult v).outLen = s.outLen := rfl
@[simp] theorem putResult_nrows (v : Nat) : (s.putResult v).nrows = s.nrows := rfl
@[simp] theorem putResult_ncols (v : Nat) : (s.putResult v).ncols = s.ncols := rfl
@[simp] theorem putResult_op0 (v : Nat) : (s.putResult v).op0 = s.op0 := rfl
@[simp] theorem putResult_op1 (v : Nat) : (s.putResult v).op1 = s.op1 := rfl
@[simp] theorem putResult_op2 (v : Nat) : (s.putResult v).op2 = s.op2 := rfl
@[simp] theorem putResult_result (v : Nat) : (s.putResult v).result = BitVec.ofNat 64 v := rfl
@[simp] theorem putResult_keyN (v : Nat) : (s.putResult v).keyN = s.keyN := rfl
@[simp] theorem putResult_keyPhi (v : Nat) : (s.putResult v).keyPhi = s.keyPhi := rfl
@[simp] theorem putResult_keyE (v : Nat) : (s.putResult v).keyE = s.keyE := rfl
@[simp] theorem putResult_keyD (v : Nat) : (s.putResult v).keyD = s.keyD := rfl
@[simp] theorem putResult_mem (v : Nat) : (s.putResult v).mem = s.mem := rfl
@[simp] theorem putResult_turns (v : Nat) : (s.putResult v).turns = s.turns := rfl
@[simp] theorem putResult_resp (v : Nat) : (s.putResult v).resp = s.resp := rfl
@[simp] theorem putResult_powerEpoch (v : Nat) : (s.putResult v).powerEpoch = s.powerEpoch := rfl

/-! `putKey` -/

@[simp] theorem putKey_ie (n phi e d : Nat) : (s.putKey n phi e d).ie = s.ie := rfl
@[simp] theorem putKey_cmd (n phi e d : Nat) : (s.putKey n phi e d).cmd = s.cmd := rfl
@[simp] theorem putKey_busy (n phi e d : Nat) : (s.putKey n phi e d).busy = s.busy := rfl
@[simp] theorem putKey_done (n phi e d : Nat) : (s.putKey n phi e d).done = s.done := rfl
@[simp] theorem putKey_errf (n phi e d : Nat) : (s.putKey n phi e d).errf = s.errf := rfl
@[simp] theorem putKey_keyValid (n phi e d : Nat) : (s.putKey n phi e d).keyValid = s.keyValid := rfl
@[simp] theorem putKey_werr (n phi e d : Nat) : (s.putKey n phi e d).werr = s.werr := rfl
@[simp] theorem putKey_errCode (n phi e d : Nat) : (s.putKey n phi e d).errCode = s.errCode := rfl
@[simp] theorem putKey_inLen (n phi e d : Nat) : (s.putKey n phi e d).inLen = s.inLen := rfl
@[simp] theorem putKey_keyLen (n phi e d : Nat) : (s.putKey n phi e d).keyLen = s.keyLen := rfl
@[simp] theorem putKey_outLen (n phi e d : Nat) : (s.putKey n phi e d).outLen = s.outLen := rfl
@[simp] theorem putKey_nrows (n phi e d : Nat) : (s.putKey n phi e d).nrows = s.nrows := rfl
@[simp] theorem putKey_ncols (n phi e d : Nat) : (s.putKey n phi e d).ncols = s.ncols := rfl
@[simp] theorem putKey_op0 (n phi e d : Nat) : (s.putKey n phi e d).op0 = s.op0 := rfl
@[simp] theorem putKey_op1 (n phi e d : Nat) : (s.putKey n phi e d).op1 = s.op1 := rfl
@[simp] theorem putKey_op2 (n phi e d : Nat) : (s.putKey n phi e d).op2 = s.op2 := rfl
@[simp] theorem putKey_result (n phi e d : Nat) : (s.putKey n phi e d).result = s.result := rfl
@[simp] theorem putKey_keyN (n phi e d : Nat) : (s.putKey n phi e d).keyN = BitVec.ofNat 64 n := rfl
@[simp] theorem putKey_keyPhi (n phi e d : Nat) : (s.putKey n phi e d).keyPhi = BitVec.ofNat 64 phi := rfl
@[simp] theorem putKey_keyE (n phi e d : Nat) : (s.putKey n phi e d).keyE = BitVec.ofNat 64 e := rfl
@[simp] theorem putKey_keyD (n phi e d : Nat) : (s.putKey n phi e d).keyD = BitVec.ofNat 64 d := rfl
@[simp] theorem putKey_mem (n phi e d : Nat) : (s.putKey n phi e d).mem = s.mem := rfl
@[simp] theorem putKey_turns (n phi e d : Nat) : (s.putKey n phi e d).turns = s.turns := rfl
@[simp] theorem putKey_resp (n phi e d : Nat) : (s.putKey n phi e d).resp = s.resp := rfl
@[simp] theorem putKey_powerEpoch (n phi e d : Nat) : (s.putKey n phi e d).powerEpoch = s.powerEpoch := rfl

/-! `validateKey` -/

@[simp] theorem validateKey_ie : (s.validateKey).ie = s.ie := rfl
@[simp] theorem validateKey_cmd : (s.validateKey).cmd = s.cmd := rfl
@[simp] theorem validateKey_busy : (s.validateKey).busy = s.busy := rfl
@[simp] theorem validateKey_done : (s.validateKey).done = s.done := rfl
@[simp] theorem validateKey_errf : (s.validateKey).errf = s.errf := rfl
@[simp] theorem validateKey_keyValid : (s.validateKey).keyValid = true := rfl
@[simp] theorem validateKey_werr : (s.validateKey).werr = s.werr := rfl
@[simp] theorem validateKey_errCode : (s.validateKey).errCode = s.errCode := rfl
@[simp] theorem validateKey_inLen : (s.validateKey).inLen = s.inLen := rfl
@[simp] theorem validateKey_keyLen : (s.validateKey).keyLen = s.keyLen := rfl
@[simp] theorem validateKey_outLen : (s.validateKey).outLen = s.outLen := rfl
@[simp] theorem validateKey_nrows : (s.validateKey).nrows = s.nrows := rfl
@[simp] theorem validateKey_ncols : (s.validateKey).ncols = s.ncols := rfl
@[simp] theorem validateKey_op0 : (s.validateKey).op0 = s.op0 := rfl
@[simp] theorem validateKey_op1 : (s.validateKey).op1 = s.op1 := rfl
@[simp] theorem validateKey_op2 : (s.validateKey).op2 = s.op2 := rfl
@[simp] theorem validateKey_result : (s.validateKey).result = s.result := rfl
@[simp] theorem validateKey_keyN : (s.validateKey).keyN = s.keyN := rfl
@[simp] theorem validateKey_keyPhi : (s.validateKey).keyPhi = s.keyPhi := rfl
@[simp] theorem validateKey_keyE : (s.validateKey).keyE = s.keyE := rfl
@[simp] theorem validateKey_keyD : (s.validateKey).keyD = s.keyD := rfl
@[simp] theorem validateKey_mem : (s.validateKey).mem = s.mem := rfl
@[simp] theorem validateKey_turns : (s.validateKey).turns = s.turns := rfl
@[simp] theorem validateKey_resp : (s.validateKey).resp = s.resp := rfl
@[simp] theorem validateKey_powerEpoch : (s.validateKey).powerEpoch = s.powerEpoch := rfl

/-! `putGrid` -/

@[simp] theorem putGrid_ie (r c : Nat) : (s.putGrid r c).ie = s.ie := rfl
@[simp] theorem putGrid_cmd (r c : Nat) : (s.putGrid r c).cmd = s.cmd := rfl
@[simp] theorem putGrid_busy (r c : Nat) : (s.putGrid r c).busy = s.busy := rfl
@[simp] theorem putGrid_done (r c : Nat) : (s.putGrid r c).done = s.done := rfl
@[simp] theorem putGrid_errf (r c : Nat) : (s.putGrid r c).errf = s.errf := rfl
@[simp] theorem putGrid_keyValid (r c : Nat) : (s.putGrid r c).keyValid = s.keyValid := rfl
@[simp] theorem putGrid_werr (r c : Nat) : (s.putGrid r c).werr = s.werr := rfl
@[simp] theorem putGrid_errCode (r c : Nat) : (s.putGrid r c).errCode = s.errCode := rfl
@[simp] theorem putGrid_inLen (r c : Nat) : (s.putGrid r c).inLen = s.inLen := rfl
@[simp] theorem putGrid_keyLen (r c : Nat) : (s.putGrid r c).keyLen = s.keyLen := rfl
@[simp] theorem putGrid_outLen (r c : Nat) : (s.putGrid r c).outLen = s.outLen := rfl
@[simp] theorem putGrid_nrows (r c : Nat) : (s.putGrid r c).nrows = BitVec.ofNat 16 r := rfl
@[simp] theorem putGrid_ncols (r c : Nat) : (s.putGrid r c).ncols = BitVec.ofNat 16 c := rfl
@[simp] theorem putGrid_op0 (r c : Nat) : (s.putGrid r c).op0 = s.op0 := rfl
@[simp] theorem putGrid_op1 (r c : Nat) : (s.putGrid r c).op1 = s.op1 := rfl
@[simp] theorem putGrid_op2 (r c : Nat) : (s.putGrid r c).op2 = s.op2 := rfl
@[simp] theorem putGrid_result (r c : Nat) : (s.putGrid r c).result = s.result := rfl
@[simp] theorem putGrid_keyN (r c : Nat) : (s.putGrid r c).keyN = s.keyN := rfl
@[simp] theorem putGrid_keyPhi (r c : Nat) : (s.putGrid r c).keyPhi = s.keyPhi := rfl
@[simp] theorem putGrid_keyE (r c : Nat) : (s.putGrid r c).keyE = s.keyE := rfl
@[simp] theorem putGrid_keyD (r c : Nat) : (s.putGrid r c).keyD = s.keyD := rfl
@[simp] theorem putGrid_mem (r c : Nat) : (s.putGrid r c).mem = s.mem := rfl
@[simp] theorem putGrid_turns (r c : Nat) : (s.putGrid r c).turns = s.turns := rfl
@[simp] theorem putGrid_resp (r c : Nat) : (s.putGrid r c).resp = s.resp := rfl
@[simp] theorem putGrid_powerEpoch (r c : Nat) : (s.putGrid r c).powerEpoch = s.powerEpoch := rfl

/-! `writeOut` -/

@[simp] theorem writeOut_ie (t : List Letter) : (s.writeOut t).ie = s.ie := rfl
@[simp] theorem writeOut_cmd (t : List Letter) : (s.writeOut t).cmd = s.cmd := rfl
@[simp] theorem writeOut_busy (t : List Letter) : (s.writeOut t).busy = s.busy := rfl
@[simp] theorem writeOut_done (t : List Letter) : (s.writeOut t).done = s.done := rfl
@[simp] theorem writeOut_errf (t : List Letter) : (s.writeOut t).errf = s.errf := rfl
@[simp] theorem writeOut_keyValid (t : List Letter) : (s.writeOut t).keyValid = s.keyValid := rfl
@[simp] theorem writeOut_werr (t : List Letter) : (s.writeOut t).werr = s.werr := rfl
@[simp] theorem writeOut_errCode (t : List Letter) : (s.writeOut t).errCode = s.errCode := rfl
@[simp] theorem writeOut_inLen (t : List Letter) : (s.writeOut t).inLen = s.inLen := rfl
@[simp] theorem writeOut_keyLen (t : List Letter) : (s.writeOut t).keyLen = s.keyLen := rfl
@[simp] theorem writeOut_outLen (t : List Letter) : (s.writeOut t).outLen = BitVec.ofNat 32 t.length := rfl
@[simp] theorem writeOut_nrows (t : List Letter) : (s.writeOut t).nrows = s.nrows := rfl
@[simp] theorem writeOut_ncols (t : List Letter) : (s.writeOut t).ncols = s.ncols := rfl
@[simp] theorem writeOut_op0 (t : List Letter) : (s.writeOut t).op0 = s.op0 := rfl
@[simp] theorem writeOut_op1 (t : List Letter) : (s.writeOut t).op1 = s.op1 := rfl
@[simp] theorem writeOut_op2 (t : List Letter) : (s.writeOut t).op2 = s.op2 := rfl
@[simp] theorem writeOut_result (t : List Letter) : (s.writeOut t).result = s.result := rfl
@[simp] theorem writeOut_keyN (t : List Letter) : (s.writeOut t).keyN = s.keyN := rfl
@[simp] theorem writeOut_keyPhi (t : List Letter) : (s.writeOut t).keyPhi = s.keyPhi := rfl
@[simp] theorem writeOut_keyE (t : List Letter) : (s.writeOut t).keyE = s.keyE := rfl
@[simp] theorem writeOut_keyD (t : List Letter) : (s.writeOut t).keyD = s.keyD := rfl
@[simp] theorem writeOut_mem (t : List Letter) : (s.writeOut t).mem = Memory.writeRun s.mem Buf.outBuf.start (t.map letterByte) := rfl
@[simp] theorem writeOut_turns (t : List Letter) : (s.writeOut t).turns = s.turns := rfl
@[simp] theorem writeOut_resp (t : List Letter) : (s.writeOut t).resp = s.resp := rfl
@[simp] theorem writeOut_powerEpoch (t : List Letter) : (s.writeOut t).powerEpoch = s.powerEpoch := rfl

/-! `softReset` -/

@[simp] theorem softReset_ie : (s.softReset).ie = false := rfl
@[simp] theorem softReset_cmd : (s.softReset).cmd = 0 := rfl
@[simp] theorem softReset_busy : (s.softReset).busy = false := rfl
@[simp] theorem softReset_done : (s.softReset).done = false := rfl
@[simp] theorem softReset_errf : (s.softReset).errf = false := rfl
@[simp] theorem softReset_keyValid : (s.softReset).keyValid = false := rfl
@[simp] theorem softReset_werr : (s.softReset).werr = false := rfl
@[simp] theorem softReset_errCode : (s.softReset).errCode = 0 := rfl
@[simp] theorem softReset_inLen : (s.softReset).inLen = 0 := rfl
@[simp] theorem softReset_keyLen : (s.softReset).keyLen = 0 := rfl
@[simp] theorem softReset_outLen : (s.softReset).outLen = 0 := rfl
@[simp] theorem softReset_nrows : (s.softReset).nrows = 0 := rfl
@[simp] theorem softReset_ncols : (s.softReset).ncols = 0 := rfl
@[simp] theorem softReset_op0 : (s.softReset).op0 = 0 := rfl
@[simp] theorem softReset_op1 : (s.softReset).op1 = 0 := rfl
@[simp] theorem softReset_op2 : (s.softReset).op2 = 0 := rfl
@[simp] theorem softReset_result : (s.softReset).result = 0 := rfl
@[simp] theorem softReset_keyN : (s.softReset).keyN = 0 := rfl
@[simp] theorem softReset_keyPhi : (s.softReset).keyPhi = 0 := rfl
@[simp] theorem softReset_keyE : (s.softReset).keyE = 0 := rfl
@[simp] theorem softReset_keyD : (s.softReset).keyD = 0 := rfl
@[simp] theorem softReset_mem : (s.softReset).mem = s.mem := rfl
@[simp] theorem softReset_turns : (s.softReset).turns = s.turns := rfl
@[simp] theorem softReset_resp : (s.softReset).resp = s.resp := rfl
@[simp] theorem softReset_powerEpoch : (s.softReset).powerEpoch = s.powerEpoch := rfl

/-! `powerOnReset` -/

@[simp] theorem powerOnReset_ie : (s.powerOnReset).ie = false := rfl
@[simp] theorem powerOnReset_cmd : (s.powerOnReset).cmd = 0 := rfl
@[simp] theorem powerOnReset_busy : (s.powerOnReset).busy = false := rfl
@[simp] theorem powerOnReset_done : (s.powerOnReset).done = false := rfl
@[simp] theorem powerOnReset_errf : (s.powerOnReset).errf = false := rfl
@[simp] theorem powerOnReset_keyValid : (s.powerOnReset).keyValid = false := rfl
@[simp] theorem powerOnReset_werr : (s.powerOnReset).werr = false := rfl
@[simp] theorem powerOnReset_errCode : (s.powerOnReset).errCode = 0 := rfl
@[simp] theorem powerOnReset_inLen : (s.powerOnReset).inLen = 0 := rfl
@[simp] theorem powerOnReset_keyLen : (s.powerOnReset).keyLen = 0 := rfl
@[simp] theorem powerOnReset_outLen : (s.powerOnReset).outLen = 0 := rfl
@[simp] theorem powerOnReset_nrows : (s.powerOnReset).nrows = 0 := rfl
@[simp] theorem powerOnReset_ncols : (s.powerOnReset).ncols = 0 := rfl
@[simp] theorem powerOnReset_op0 : (s.powerOnReset).op0 = 0 := rfl
@[simp] theorem powerOnReset_op1 : (s.powerOnReset).op1 = 0 := rfl
@[simp] theorem powerOnReset_op2 : (s.powerOnReset).op2 = 0 := rfl
@[simp] theorem powerOnReset_result : (s.powerOnReset).result = 0 := rfl
@[simp] theorem powerOnReset_keyN : (s.powerOnReset).keyN = 0 := rfl
@[simp] theorem powerOnReset_keyPhi : (s.powerOnReset).keyPhi = 0 := rfl
@[simp] theorem powerOnReset_keyE : (s.powerOnReset).keyE = 0 := rfl
@[simp] theorem powerOnReset_keyD : (s.powerOnReset).keyD = 0 := rfl
@[simp] theorem powerOnReset_mem : (s.powerOnReset).mem = [] := rfl
@[simp] theorem powerOnReset_turns : (s.powerOnReset).turns = s.turns := rfl
@[simp] theorem powerOnReset_resp : (s.powerOnReset).resp = .none := rfl
@[simp] theorem powerOnReset_powerEpoch : (s.powerOnReset).powerEpoch = s.powerEpoch + 1 := rfl

/-! The completions by name. -/

@[simp] theorem raise_eq (e : CmdError) : s.raise e = s.complete (some e) := rfl
@[simp] theorem finish_eq : s.finish = s.complete none := rfl
@[simp] theorem completeIllegal_eq : s.completeIllegal = s.complete (some .illegalCommand) := rfl
@[simp] theorem failKey_eq : s.failKey = s.putKey 0 0 0 0 := rfl

end Sys2Proof.Machine.State
end

