-- ==== Sys2Proof/Laws/Ops.lean ====
section
/-! SUPPORT. For each shared operation, once, everything it can do: what a command, a host access and a step can answer. -/

namespace Sys2Proof.Machine

/-! ## Operands -/

/-- `s64` is the two's-complement value that `BitVec.toInt` gives (00_scope.md R12). -/
theorem s64_eq_toInt (v : Word64) : s64 v = v.toInt := by
  have := v.isLt
  simp only [s64, BitVec.toInt]
  split <;> split <;> omega

/-- `normMod` as an integer remainder. -/
theorem normMod_cast (n : Int) {m : Nat} (h : 0 < m) : ((normMod n m : Nat) : Int) = n % (m : Int) :=
  Int.toNat_of_nonneg (Int.emod_nonneg n (by omega))

theorem normMod_lt (n : Int) {m : Nat} (h : 0 < m) : normMod n m < m := by
  have h1 := normMod_cast n h
  have h2 := Int.emod_lt_of_pos n (show (0 : Int) < m by omega)
  omega

/-- The value of an integer taken as a Letter. -/
theorem toLetter_val (v : Int) : (toLetter v).val = normMod v 26 := by
  simp [toLetter, Fin.ofNat, Nat.mod_eq_of_lt (normMod_lt v (show 0 < 26 by decide))]

/-- A buffer run is read exactly when each of its bytes holds a value. -/
theorem State.bytes_eq_some {s : State} {b : Buf} {n : Nat} {bs : List Byte} :
    s.bytes b n = some bs ↔ bs.length = n ∧ ∀ i, i < n → s.byte b i = bs[i]? :=
  Memory.readRun_eq_some

/-- The message is the filtered text of the bytes read. -/
theorem State.message_eq_some {s : State} {n : Nat} {P : List Letter} :
    s.message n = some P ↔ ∃ bs, s.bytes .inBuf n = some bs ∧ filterText bs = P := by
  unfold State.message
  cases s.bytes .inBuf n <;> simp

/-- The keyword is the filtered text of the bytes read. -/
theorem State.keyword_eq_some {s : State} {n : Nat} {K : List Letter} :
    s.keyword n = some K ↔ ∃ bs, s.bytes .keyBuf n = some bs ∧ filterText bs = K := by
  unfold State.keyword
  cases s.bytes .keyBuf n <;> simp

/-! ## Loops and their bounds -/

/-- With its bound above the exponent, one more round than the bound changes nothing: the loop has ended. -/
theorem modPowLoop_zero (m fuel r b : Nat) : modPowLoop m fuel r b 0 = r := by
  cases fuel <;> simp [modPowLoop]

/-- One round of `ModPow` (41_modular_arithmetic.md R454). -/
theorem modPowLoop_succ (m fuel r b : Nat) {e : Nat} (h : e ≠ 0) :
    modPowLoop m (fuel + 1) r b e = modPowLoop m fuel (if e % 2 = 1 then r * b % m else r) (b * b % m) (e / 2) := by
  rw [modPowLoop, if_neg h]

/-! ## Commands -/

/-- What AFFENC and AFFDEC can answer (60_exceptions.md R704). -/
theorem affineCommand_cases (f : Int → Int → Letter → Letter) (s : State) :
    (s.inLenBad = true ∧ affineCommand f s = .next (s.complete (some .invalidNumber))) ∨
    (s.inLenBad = false ∧ s.keyA ∉ affineUnits ∧ affineCommand f s = .next (s.complete (some .invalidKey))) ∨
    (s.inLenBad = false ∧ s.keyA ∈ affineUnits ∧ s.message s.inCount = none ∧
      affineCommand f s = .fault (.unwrittenByte .inBuf)) ∨
    (s.inLenBad = false ∧ s.keyA ∈ affineUnits ∧ s.message s.inCount = some [] ∧
      affineCommand f s = .next (s.complete (some .emptyInput))) ∨
    (s.inLenBad = false ∧ s.keyA ∈ affineUnits ∧ ∃ P, P ≠ [] ∧ s.message s.inCount = some P ∧
      affineCommand f s = .next ((s.writeOut (P.map (f s.keyA s.keyB))).complete none)) := by
  unfold affineCommand
  cases h1 : s.inLenBad
  · by_cases h2 : s.keyA ∈ affineUnits
    · match h3 : s.message s.inCount with
      | none => simp [h2]
      | some [] => simp [h2]
      | some (l :: ls) => simp [h2]
    · simp [h2]
  · simp

/-- What COLENC and COLDEC can answer (60_exceptions.md R704). -/
theorem columnCommand_cases (f : List Letter → List Letter → List Letter) (s : State) :
    (s.lengthsBad = true ∧ columnCommand f s = .next (s.complete (some .invalidNumber))) ∨
    (s.lengthsBad = false ∧ s.keyword s.keyCount = none ∧ columnCommand f s = .fault (.unwrittenByte .keyBuf)) ∨
    (s.lengthsBad = false ∧ ∃ K, s.keyword s.keyCount = some K ∧
      ((K.length < 2 ∧ columnCommand f s = .next (s.complete (some .invalidKey))) ∨
       (2 ≤ K.length ∧ s.message s.inCount = none ∧ columnCommand f s = .fault (.unwrittenByte .inBuf)) ∨
       (2 ≤ K.length ∧ s.message s.inCount = some [] ∧
         columnCommand f s = .next (s.complete (some .emptyInput))) ∨
       (2 ≤ K.length ∧ ∃ P, P ≠ [] ∧ s.message s.inCount = some P ∧
         columnCommand f s =
           .next ((((s.writeOut (f K P)).putGrid (gridRows K.length P.length) K.length).putBytes .rankBuf
             (rankBytes K)).complete none)))) := by
  unfold columnCommand
  cases h1 : s.lengthsBad
  · match h2 : s.keyword s.keyCount with
    | none => simp
    | some K =>
      by_cases h3 : K.length < 2
      · exact .inr (.inr ⟨rfl, K, rfl, .inl ⟨h3, by simp [h3]⟩⟩)
      · have h4 : 2 ≤ K.length := by omega
        match h5 : s.message s.inCount with
        | none => simp [h3, h4]
        | some [] => simp [h3, h4]
        | some (l :: ls) => simp [h3, h4]
  · simp

/-- What RSAKEYGEN can answer (44_rsa.md R600). -/
theorem execRsakeygen_cases (s : State) :
    ((isPrime s.u0 = false ∨ isPrime s.u1 = false ∨ s.u0 = s.u1) ∧
      execRsakeygen s = .next ((s.putKey 0 0 0 0).complete (some .invalidKey))) ∨
    (isPrime s.u0 = true ∧ isPrime s.u1 = true ∧ s.u0 ≠ s.u1 ∧ 2 ^ 64 ≤ s.u0 * s.u1 ∧
      execRsakeygen s = .next ((s.putKey 0 0 0 0).complete (some .invalidNumber))) ∨
    (isPrime s.u0 = true ∧ isPrime s.u1 = true ∧ s.u0 ≠ s.u1 ∧ s.u0 * s.u1 < 2 ^ 64 ∧
      ∃ phi e, phi = (s.u0 - 1) * (s.u1 - 1) ∧ e = publicExponent phi ∧
        execRsakeygen s =
          .next ((s.putKey (s.u0 * s.u1) phi e (privateExponent e phi)).validateKey.complete none)) := by
  unfold execRsakeygen
  by_cases h1 : isPrime s.u0 = false ∨ isPrime s.u1 = false ∨ s.u0 = s.u1
  · exact .inl ⟨h1, by rw [if_pos h1]; rfl⟩
  · rw [if_neg h1]
    simp only [not_or, Bool.not_eq_false] at h1
    obtain ⟨hp, hq, hne⟩ := h1
    by_cases h2 : 2 ^ 64 ≤ s.u0 * s.u1
    · exact .inr (.inl ⟨hp, hq, hne, h2, by rw [if_pos h2]; rfl⟩)
    · refine .inr (.inr ⟨hp, hq, hne, by omega, _, _, rfl, rfl, ?_⟩)
      rw [if_neg h2]
      rfl

/-! ## Host accesses -/

/-- What a write of a 32-bit register can leave. -/
theorem State.write32_cases (s : State) (r : Reg32) (d : Word32) :
    s.write32 r d = s ∨ (s.busy = true ∧ s.write32 r d = s.refuseWrite) ∨
    (r = .ctrl ∧ d.getLsbD 1 = true ∧ s.write32 r d = s.softReset) ∨
    (r = .ctrl ∧ d.getLsbD 1 = false ∧ s.write32 r d = { s with ie := d.getLsbD 0 }) ∨
    (r = .status ∧ s.write32 r d = s.writeStatus d) ∨
    (s.busy = false ∧ r = .cmd ∧ s.write32 r d = s.accept d) ∨
    (s.busy = false ∧ r = .inLen ∧ s.write32 r d = { s with inLen := d }) ∨
    (s.busy = false ∧ r = .keyLen ∧ s.write32 r d = { s with keyLen := d }) := by
  cases r with
  | ctrl =>
    by_cases hd : d.getLsbD 1 = true
    · exact .inr (.inr (.inl ⟨rfl, hd, if_pos hd⟩))
    · exact .inr (.inr (.inr (.inl ⟨rfl, by simpa using hd, if_neg hd⟩)))
  | id | err | outLen | grid => exact .inl rfl
  | status => exact .inr (.inr (.inr (.inr (.inl ⟨rfl, rfl⟩))))
  | cmd | inLen | keyLen => cases hb : s.busy <;> simp [State.write32, State.issue, State.guarded, hb]

/-- What a write of one half of a 64-bit register can leave. -/
theorem State.writeHalf_cases (s : State) (r : Reg64) (high : Bool) (d : Word32) :
    s.writeHalf r high d = s ∨ (s.busy = true ∧ s.writeHalf r high d = s.refuseWrite) ∨
    (s.busy = false ∧ (r = .op0 ∨ r = .op1 ∨ r = .op2) ∧ s.writeHalf r high d = s.setHalf64 r high d) := by
  cases r <;> cases hb : s.busy <;> simp [State.writeHalf, State.guarded, hb]

/-- What a write into a buffer can leave. -/
theorem State.writeBuffer_cases (s : State) (b : Buf) (off : Nat) (bs : List Byte) :
    s.writeBuffer b off bs = s ∨ (s.busy = true ∧ s.writeBuffer b off bs = s.refuseWrite) ∨
    (s.busy = false ∧ (b = .inBuf ∨ b = .keyBuf) ∧
      s.writeBuffer b off bs = { s with mem := Memory.writeRun s.mem off bs }) := by
  cases b <;> cases hb : s.busy <;> simp [State.writeBuffer, State.guarded, hb]

/-- What one access in the window can leave. -/
theorem windowAccess_cases (s : State) (off : Nat) (op : BusOp) :
    (windowAccess s off op).1 = s ∨
    (∃ r d, op = .wr32 d ∧ targetOf off = .reg32 r ∧ off % 4 = 0 ∧ (windowAccess s off op).1 = s.write32 r d) ∨
    (∃ r h d, op = .wr32 d ∧ targetOf off = .half r h ∧ off % 4 = 0 ∧
      (windowAccess s off op).1 = s.writeHalf r h d) ∨
    (∃ b d, op = .wr32 d ∧ targetOf off = .buffer b ∧ off % 4 = 0 ∧
      (windowAccess s off op).1 = s.writeBuffer b off (wordBytes d)) ∨
    (∃ b d, op = .wr8 d ∧ targetOf off = .buffer b ∧ (windowAccess s off op).1 = s.writeBuffer b off [d]) := by
  unfold windowAccess
  cases op with
  | rd8 => left; split <;> rfl
  | rd32 => left; split <;> rfl
  | otherSize r bits => left; split <;> rfl
  | wr8 d =>
    by_cases h : permitted (.wr8 d) off
    · rw [if_pos h]
      cases ht : targetOf off <;> simp [State.writeByte, ht]
    · rw [if_neg h]; exact .inl rfl
  | wr32 d =>
    by_cases h : permitted (.wr32 d) off
    · rw [if_pos h]
      have h4 : off % 4 = 0 := by simpa [permitted] using h
      cases ht : targetOf off with
      | reserved => exact .inl (by simp [State.writeWord, ht])
      | reg32 r => exact .inr (.inl ⟨r, d, rfl, rfl, h4, by simp [State.writeWord, ht]⟩)
      | half r high => exact .inr (.inr (.inl ⟨r, high, d, rfl, rfl, h4, by simp [State.writeWord, ht]⟩))
      | buffer b => exact .inr (.inr (.inr (.inl ⟨b, d, rfl, rfl, h4, by simp [State.writeWord, ht]⟩)))
    · rw [if_neg h]; exact .inl rfl

/-- The bus address of a window offset decodes to that offset (20_memory.md R200). -/
theorem offsetOf_base_add {off : Nat} (h : off < 0x2000) : offsetOf (Config.base + off) = some off := by
  have hw : Config.windowSize = 0x2000 := rfl
  rw [offsetOf, if_pos ⟨by omega, by omega⟩]
  simp

/-! ## One step -/

/-- What one step can answer, by the turn it takes. -/
theorem step_cases (s : State) :
    (s.turns = [] ∧ step s = engineTurn s) ∨
    (∃ ts, s.turns = .engine :: ts ∧ step s = engineTurn { s with turns := ts }) ∨
    (∃ a ts, s.turns = .host a :: ts ∧ step s = hostTurn { s with turns := ts } a) ∨
    (∃ ts, s.turns = .powerOn :: ts ∧ step s = .next (State.powerOnReset { s with turns := ts })) := by
  match h : s.turns with
  | [] => exact .inl ⟨rfl, by simp [step, h]⟩
  | .engine :: ts => exact .inr (.inl ⟨ts, rfl, by simp [step, h]⟩)
  | .host a :: ts => exact .inr (.inr (.inl ⟨a, ts, rfl, by simp [step, h]⟩))
  | .powerOn :: ts => exact .inr (.inr (.inr ⟨ts, rfl, by simp [step, h]⟩))

/-- What the engine's turn can answer (40_codec_and_command.md R402, R404). -/
theorem engineTurn_cases (s : State) :
    (s.busy = false ∧ engineTurn s = .next s) ∨
    (s.busy = true ∧ ∃ i, decode s.cmd = .ok i ∧ engineTurn s = exec i s) ∨
    (s.busy = true ∧ ∃ e, decode s.cmd = .error e ∧ engineTurn s = .next (s.complete (some .illegalCommand))) := by
  cases hb : s.busy
  · simp [engineTurn, hb]
  · match h : decode s.cmd with
    | .ok i => simp [engineTurn, engineStep, hb, h]
    | .error e => simp [engineTurn, engineStep, hb, h]

/-- A host turn that answers a next state leaves what its access left, and the access's response. -/
theorem hostTurn_next {s t : State} {a : BusAccess} (h : hostTurn s a = .next t) :
    (busAccess s a).2.isError = false ∧ t = { (busAccess s a).1 with resp := (busAccess s a).2 } := by
  unfold hostTurn at h
  cases he : (busAccess s a).2.isError
  · simp [he] at h
    exact ⟨rfl, h.symm⟩
  · simp [he] at h

end Sys2Proof.Machine
end

