-- ==== Sys2Proof/Laws/Bus.lean ====
section
/-! SUPPORT. The address decode by ranges and the four kinds of permitted access, so that no proof unfolds them. -/

namespace Sys2Proof.Machine

/-! ## Address decode (20_memory.md R201) -/

theorem targetOf_reg32 {off : Nat} (h : off < 0x024) : targetOf off = .reg32 (reg32At (off / 4)) := if_pos h

theorem targetOf_half {off : Nat} (h : 0x040 ≤ off) (h' : off < 0x080) :
    targetOf off = .half (reg64At ((off - 0x040) / 8)) (off / 4 % 2 == 1) := by
  rw [targetOf, if_neg (by omega), if_neg (by omega), if_pos h']

theorem targetOf_keyBuf {off : Nat} (h : 0x400 ≤ off) (h' : off < 0x440) : targetOf off = .buffer .keyBuf := by
  unfold targetOf; split_ifs <;> first | rfl | omega

theorem targetOf_rankBuf {off : Nat} (h : 0x440 ≤ off) (h' : off < 0x480) : targetOf off = .buffer .rankBuf := by
  unfold targetOf; split_ifs <;> first | rfl | omega

theorem targetOf_inBuf {off : Nat} (h : 0x800 ≤ off) (h' : off < 0xC00) : targetOf off = .buffer .inBuf := by
  unfold targetOf; split_ifs <;> first | rfl | omega

theorem targetOf_outBuf {off : Nat} (h : 0x1000 ≤ off) (h' : off < 0x1800) : targetOf off = .buffer .outBuf := by
  unfold targetOf; split_ifs <;> first | rfl | omega

theorem targetOf_reserved {off : Nat}
    (h : (0x024 ≤ off ∧ off < 0x040) ∨ (0x080 ≤ off ∧ off < 0x400) ∨ (0x480 ≤ off ∧ off < 0x800) ∨
      (0xC00 ≤ off ∧ off < 0x1000) ∨ 0x1800 ≤ off) : targetOf off = .reserved := by
  unfold targetOf; split_ifs <;> first | rfl | omega

/-- The range of a buffer decodes to that buffer. -/
theorem targetOf_start_add (b : Buf) {k : Nat} (h : k < b.size) : targetOf (b.start + k) = .buffer b := by
  cases b <;> simp only [Buf.size, Config.keyMax, Config.inMax, Config.outMax] at h <;> simp only [Buf.start]
  · exact targetOf_keyBuf (by omega) (by omega)
  · exact targetOf_rankBuf (by omega) (by omega)
  · exact targetOf_inBuf (by omega) (by omega)
  · exact targetOf_outBuf (by omega) (by omega)

/-- An offset's buffer is the one whose range holds it. -/
theorem targetOf_buffer_range {off : Nat} {b : Buf} (h : targetOf off = .buffer b) :
    b.start ≤ off ∧ off < b.start + b.size := by
  unfold targetOf at h
  split_ifs at h <;> cases h <;>
    simp only [Buf.start, Buf.size, Config.keyMax, Config.inMax, Config.outMax] <;> omega

theorem inBuffer_eq_true {off : Nat} : inBuffer off = true ↔ ∃ b, targetOf off = .buffer b := by
  unfold inBuffer
  cases targetOf off <;> simp

theorem inBuffer_start_add (b : Buf) {k : Nat} (h : k < b.size) : inBuffer (b.start + k) = true :=
  inBuffer_eq_true.2 ⟨b, targetOf_start_add b h⟩

/-- A byte that holds a value is what a host read sees. -/
theorem State.hostByte_of_byte {s : State} {b : Buf} {k : Nat} {v : Byte} (h : s.byte b k = some v) :
    s.hostByte (b.start + k) = v := by
  rw [State.byte] at h
  simp [State.hostByte, h]

/-- Four buffer bytes that hold values, as a word (20_memory.md R204). -/
theorem State.bufferWord_of_bytes {s : State} {b : Buf} {k : Nat} {v0 v1 v2 v3 : Byte} (h0 : s.byte b k = some v0)
    (h1 : s.byte b (k + 1) = some v1) (h2 : s.byte b (k + 2) = some v2) (h3 : s.byte b (k + 3) = some v3) :
    s.bufferWord (b.start + k) = v3 ++ v2 ++ v1 ++ v0 := by
  simp only [State.bufferWord, Nat.add_assoc, State.hostByte_of_byte h0, State.hostByte_of_byte h1,
    State.hostByte_of_byte h2, State.hostByte_of_byte h3]

/-! ## The permitted accesses (20_memory.md R202, R203) -/

theorem windowAccess_rd32 (s : State) {off : Nat} (h : off % 4 = 0) :
    windowAccess s off .rd32 = (s, .data32 (s.readWord off)) := by simp [windowAccess, permitted, h]

theorem windowAccess_wr32 (s : State) {off : Nat} (d : Word32) (h : off % 4 = 0) :
    windowAccess s off (.wr32 d) = (s.writeWord off d, .written) := by simp [windowAccess, permitted, h]

theorem windowAccess_rd8 (s : State) {off : Nat} (h : inBuffer off = true) :
    windowAccess s off .rd8 = (s, .data8 (s.hostByte off)) := by simp [windowAccess, permitted, h]

theorem windowAccess_wr8 (s : State) {off : Nat} (d : Byte) (h : inBuffer off = true) :
    windowAccess s off (.wr8 d) = (s.writeByte off d, .written) := by simp [windowAccess, permitted, h]

theorem windowAccess_forbidden (s : State) {off : Nat} {op : BusOp} (h : permitted op off = false) :
    windowAccess s off op = (s, errorResponse op) := by simp [windowAccess, h]

/-! ## What a word access does, by its target -/

theorem State.readWord_reg32 (s : State) {off : Nat} {r : Reg32} (h : targetOf off = .reg32 r) :
    s.readWord off = s.read32 r := by simp [State.readWord, h]

theorem State.readWord_half (s : State) {off : Nat} {r : Reg64} {high : Bool} (h : targetOf off = .half r high) :
    s.readWord off = getHalf (s.get64 r) high := by simp [State.readWord, h]

theorem State.readWord_buffer (s : State) {off : Nat} {b : Buf} (h : targetOf off = .buffer b) :
    s.readWord off = s.bufferWord off := by simp [State.readWord, h]

theorem State.readWord_reserved (s : State) {off : Nat} (h : targetOf off = .reserved) : s.readWord off = 0 := by
  simp [State.readWord, h]

theorem State.writeWord_reg32 (s : State) {off : Nat} {r : Reg32} (d : Word32) (h : targetOf off = .reg32 r) :
    s.writeWord off d = s.write32 r d := by simp [State.writeWord, h]

theorem State.writeWord_half (s : State) {off : Nat} {r : Reg64} {high : Bool} (d : Word32)
    (h : targetOf off = .half r high) : s.writeWord off d = s.writeHalf r high d := by simp [State.writeWord, h]

theorem State.writeWord_buffer (s : State) {off : Nat} {b : Buf} (d : Word32) (h : targetOf off = .buffer b) :
    s.writeWord off d = s.writeBuffer b off (wordBytes d) := by simp [State.writeWord, h]

theorem State.writeWord_reserved (s : State) {off : Nat} (d : Word32) (h : targetOf off = .reserved) :
    s.writeWord off d = s := by simp [State.writeWord, h]

theorem State.writeByte_buffer (s : State) {off : Nat} {b : Buf} (d : Byte) (h : targetOf off = .buffer b) :
    s.writeByte off d = s.writeBuffer b off [d] := by simp [State.writeByte, h]

end Sys2Proof.Machine
end

