-- ==== Sys2Proof/Laws/HostScript.lean ====
section
/-! SUPPORT. What a host script's variables hold after a read, where a fresh label stands, and what one word read inside the
window does, so that no proof unfolds the script machine. -/

namespace Sys2Proof.Machine

/-! ## Variables -/

@[simp] theorem HostVars.held_readInto_self (vs : HostVars) (v : HostVar) (d : Word32) :
    HostVars.held (HostVars.readInto vs v d) v.name = some (HostValue.store (HostVars.held vs v.name) d v) := by
  simp [HostVars.held, HostVars.readInto]

theorem HostVars.held_readInto_other (vs : HostVars) {v : HostVar} {w : String} (d : Word32) (h : w ≠ v.name) :
    HostVars.held (HostVars.readInto vs v d) w = HostVars.held vs w := by
  simp [HostVars.held, HostVars.readInto, Ne.symm h]

/-- A read leaves every variable of another name. -/
theorem HostVars.value_readInto_other (vs : HostVars) {v w : HostVar} (d : Word32) (h : w.name ≠ v.name) :
    HostVars.value (HostVars.readInto vs v d) w = HostVars.value vs w := by
  rw [HostVars.value, HostVars.held_readInto_other vs d h, HostVars.value]

/-- A word read into `$v` is its value, zero-extended. -/
@[simp] theorem HostVars.value_readInto_whole (vs : HostVars) (v : String) (d : Word32) :
    HostVars.value (HostVars.readInto vs (.whole v) d) (.whole v) = some (d.setWidth 64) := by
  rw [HostVars.value, HostVars.held_readInto_self]; rfl

/-- What a variable holds once its low and then its high half are read (30_encoding.md R309). -/
theorem HostVars.held_readInto_lo_hi (vs : HostVars) (v : String) (lo hi : Word32) :
    HostVars.held (HostVars.readInto (HostVars.readInto vs (.lo v) lo) (.hi v) hi) v = some (.halves (some lo) (some hi)) := by
  have h1 := HostVars.held_readInto_self (HostVars.readInto vs (.lo v) lo) (.hi v) hi
  have h2 := HostVars.held_readInto_self vs (.lo v) lo
  simp only [HostVar.name] at h1 h2
  rw [h1, h2]
  rfl

/-! ## Statements and labels -/

/-- The statement a host stands at, by what stands before it. -/
theorem HostSystem.stmt_at {h : HostSystem} {pre rest : List HostStmt} {st : HostStmt} (hs : h.script = pre ++ st :: rest)
    (ha : h.at_ = pre.length) : h.script[h.at_]? = some st := by simp [hs, ha]

/-- A label that no earlier statement is stands at its own place. -/
theorem labelIndex_of_prefix {pre rest : List HostStmt} {l : HostLabel} (h : HostStmt.label l ∉ pre) :
    labelIndex (pre ++ .label l :: rest) l = some pre.length := by
  induction pre with
  | nil => simp [labelIndex, List.findIdx?_cons]
  | cons st pre ih =>
    simp only [List.mem_cons, not_or] at h
    have := ih h.2
    simp only [labelIndex] at this ⊢
    simp [List.findIdx?_cons, Ne.symm h.1, this]

/-! ## Accesses -/

/-- A 64-bit register's two words, as a script reads them (20_memory.md R204). -/
theorem State.readWord_reg64 (s : State) (r : Reg64) :
    s.readWord r.offset = (s.get64 r).extractLsb' 0 32 ∧ s.readWord (r.offset + 4) = (s.get64 r).extractLsb' 32 32 := by
  cases r <;> exact ⟨rfl, rfl⟩

/-- Where the 64-bit registers stand. -/
theorem Reg64.offset_bounds (r : Reg64) : r.offset % 8 = 0 ∧ 0x040 ≤ r.offset ∧ r.offset < 0x080 := by
  cases r <;> decide

/-- The host's turn of a script's word read inside the window: it changes the block's turns and response only. -/
theorem step_rd32 (s : State) {off : Nat} (h : off < 0x2000) (h4 : off % 4 = 0) :
    step { s with turns := [.host (scriptAccess off .rd32)] } =
      .next { s with turns := [], resp := .data32 (s.readWord off) } := by
  have : ({ s with turns := [] } : State).readWord off = s.readWord off := by
    unfold State.readWord
    cases targetOf off with
    | reg32 r => cases r <;> rfl
    | half r high => cases r <;> rfl
    | buffer b => rfl
    | reserved => rfl
  simp [step, hostTurn, busAccess, scriptAccess, offsetOf_base_add h, windowAccess_rd32 _ h4, Response.isError, this]

/-- A script's word read inside the window: it stores the word the block answered. -/
theorem HostSystem.access_rd32 (h : HostSystem) {off : Nat} (v : HostVar) (hoff : off < 0x2000) (h4 : off % 4 = 0) :
    h.access off .rd32 (some v) =
      .next
        { h with
          block := { h.block with turns := [], resp := .data32 (h.block.readWord off) }
          at_ := h.at_ + 1
          vars := HostVars.readInto h.vars v (h.block.readWord off) } := by
  simp [HostSystem.access, step_rd32 h.block hoff h4, Response.data]

end Sys2Proof.Machine
end

