-- ==== Sys2Proof/Laws/PerInstr.lean ====
section
/-! SUPPORT. Statements for all commands, one lemma per constructor. -/

/-- Family `Encoding` (30_encoding.md R300, R301): the command's word has RSVD = 0, the decoder reads the command from it,
the host's view of the decoder agrees, and the command is well formed. -/
def Sys2Proof.Laws.Encoding.Statement (i : Sys2Proof.Instr) : Prop :=
  Sys2Proof.rsvdField (Sys2Proof.encode i) = 0 ∧ Sys2Proof.decode (Sys2Proof.encode i) = .ok i ∧
    Sys2Proof.decodeTableWord 32 (Sys2Proof.encode i).toNat = some i ∧ i.wf = true

namespace Sys2Proof.Laws.Encoding

theorem modexp : Statement .modexp := ⟨by decide, rfl, rfl, rfl⟩
theorem modinv : Statement .modinv := ⟨by decide, rfl, rfl, rfl⟩
theorem isprime : Statement .isprime := ⟨by decide, rfl, rfl, rfl⟩
theorem rsakeygen : Statement .rsakeygen := ⟨by decide, rfl, rfl, rfl⟩
theorem rsaenc : Statement .rsaenc := ⟨by decide, rfl, rfl, rfl⟩
theorem rsadec : Statement .rsadec := ⟨by decide, rfl, rfl, rfl⟩
theorem affenc : Statement .affenc := ⟨by decide, rfl, rfl, rfl⟩
theorem affdec : Statement .affdec := ⟨by decide, rfl, rfl, rfl⟩
theorem colenc : Statement .colenc := ⟨by decide, rfl, rfl, rfl⟩
theorem coldec : Statement .coldec := ⟨by decide, rfl, rfl, rfl⟩

end Sys2Proof.Laws.Encoding
end

