-- ==== Sys2Proof/Tests/Slice0.lean ====
section
/-! SUPPORT. The model's own tests. Expected values are from spec/95_test_vectors.md (the vector's id stands in the comment)
or from the rule named; then, for every statement with hypotheses, a witness that meets them. -/

namespace Sys2Proof.Tests

open Sys2Proof.Machine

/-! ## Helpers -/

/-- A busy block with three operands. -/
def withOps (a b c : Nat) : State :=
  { State.reset with busy := true, op0 := BitVec.ofNat 64 a, op1 := BitVec.ofNat 64 b, op2 := BitVec.ofNat 64 c }

/-- A busy block with operands, a message and a keyword. -/
def withText (a b : Nat) (msg key : List Byte) : State :=
  { withOps a b 0 with
    inLen := BitVec.ofNat 32 msg.length
    keyLen := BitVec.ofNat 32 key.length
    mem := Memory.writeRun (Memory.writeRun [] 0x400 key) 0x800 msg }

/-- Whether an outcome is a next state with a property. -/
def nextHas (o : Host.Outcome State Fault Refusal) (p : State → Bool) : Bool := (nextOf o).any p

theorem next_of_nextHas {o : Host.Outcome State Fault Refusal} {p : State → Bool} (h : nextHas o p = true) :
    ∃ t, o = .next t ∧ p t = true := by
  cases o <;> simp_all [nextHas, nextOf]

/-! ## Well-formedness -/

theorem test_wf_commands : Instr.modexp.wf && Instr.rsakeygen.wf && Instr.coldec.wf := by decide
theorem test_wf_refuses_otherSize_8 : (BusOp.otherSize true 8).wf = false := by decide
theorem test_wf_refuses_otherSize_32 : (BusOp.otherSize false 32).wf = false := by decide
theorem test_wf_accepts_otherSize_16 : (BusOp.otherSize true 16).wf = true := by decide
theorem test_wf_refuses_access : (BusAccess.wf { addr := 0, op := .otherSize true 8 }) = false := by decide
theorem test_wf_refuses_turn : (Turn.host { addr := 0, op := .otherSize false 32 }).wf = false := by decide

/-! ## Decoding: words written out from the encoding column of the opcode table and 30_encoding.md R301 -/

theorem test_decode_modexp : decode 0b00000000000000000000000000000001 = .ok .modexp := rfl
theorem test_decode_modinv : decode 0b00000000000000000000000000000010 = .ok .modinv := rfl
theorem test_decode_isprime : decode 0b00000000000000000000000000000011 = .ok .isprime := rfl
theorem test_decode_rsakeygen : decode 0b00000000000000000000000000000100 = .ok .rsakeygen := rfl
theorem test_decode_rsaenc : decode 0b00000000000000000000000000000101 = .ok .rsaenc := rfl
theorem test_decode_rsadec : decode 0b00000000000000000000000000000110 = .ok .rsadec := rfl
theorem test_decode_affenc : decode 0b00000000000000000000000000010000 = .ok .affenc := rfl
theorem test_decode_affdec : decode 0b00000000000000000000000000010001 = .ok .affdec := rfl
theorem test_decode_colenc : decode 0b00000000000000000000000000100000 = .ok .colenc := rfl
theorem test_decode_coldec : decode 0b00000000000000000000000000100001 = .ok .coldec := rfl

/-- R302: word 0, a gap in the map, and a word with RSVD set are rejected by name. -/
theorem test_decode_rejects :
    decode 0x00000000 = .error (.unassignedOpcode 0) ∧ decode 0x00000007 = .error (.unassignedOpcode 7) ∧
    decode 0x000000FF = .error (.unassignedOpcode 0xFF) ∧ decode 0x00000104 = .error (.reservedBits 1) ∧
    decode 0xFFFFFFFF = .error (.reservedBits 0xFFFFFF) := ⟨rfl, rfl, rfl, rfl, rfl⟩

/-- R310. -/
theorem test_disassemble : disassemble 0x00000021 = "COLDEC" ∧ disassemble 0x00000104 = ".illegal 0x00000104" := by decide

/-! ## Commands -/

/-- V41-10: 2^64 mod (2^64 − 1) needs the exact product. -/
theorem test_modexp_exact : nextHas (exec .modexp (withOps 2 64 (2 ^ 64 - 1))) (fun t => t.result == 1) := by decide
/-- V41-6: exponent 0, modulus 1. -/
theorem test_modexp_modulus_one :
    nextHas (exec .modexp (withOps 2 0 1)) (fun t => t.result == 0 && t.errCode == 0) := by decide
/-- V41-21. -/
theorem test_modinv_inverse : nextHas (exec .modinv (withOps 7 3120 9)) (fun t => t.result == 1783) := by decide
/-- V60-1: modulus 0 is checked before the gcd. -/
theorem test_modinv_modulus_zero : nextHas (exec .modinv (withOps 4 0 0)) (fun t => t.errCode == 3 && t.errf) := by decide
/-- V41-42: 561 is a Carmichael number. -/
theorem test_isprime_carmichael : nextHas (exec .isprime (withOps 561 0 0)) (fun t => t.result == 0) := by decide
/-- V41-41. -/
theorem test_isprime_prime : nextHas (exec .isprime (withOps 7919 0 0)) (fun t => t.result == 1) := by decide
/-- V44-2. -/
theorem test_rsakeygen_key :
    nextHas (exec .rsakeygen (withOps 61 53 0))
      (fun t => t.keyN == 3233 && t.keyPhi == 3120 && t.keyE == 7 && t.keyD == 1783 && t.keyValid && !t.errf) := by decide
/-- V44-9: p = q zeroes the key. -/
theorem test_rsakeygen_equal_primes :
    nextHas (exec .rsakeygen { withOps 7 7 0 with keyN := 33, keyD := 7 })
      (fun t => t.keyN == 0 && t.keyD == 0 && !t.keyValid && t.errCode == 2) := by decide
/-- V44-20. -/
theorem test_rsaenc_residue : nextHas (exec .rsaenc (withOps 5 3 33)) (fun t => t.result == 26) := by decide
/-- V44-28: n = 0 admits no message. -/
theorem test_rsaenc_modulus_zero : nextHas (exec .rsaenc (withOps 0 5 0)) (fun t => t.errCode == 4) := by decide
/-- V44-41: a ciphertext above the modulus is reduced. -/
theorem test_rsadec_reduces : nextHas (exec .rsadec (withOps 40 7 33)) (fun t => t.result == 28) := by decide
/-- V44-47. -/
theorem test_rsadec_modulus_zero : nextHas (exec .rsadec (withOps 5 7 0)) (fun t => t.errCode == 3) := by decide
/-- V42-6: "AZ" with a = 7, b = −2^63 gives "SL". -/
theorem test_affenc_extreme_key :
    nextHas (exec .affenc (withText 7 (2 ^ 63) [0x41, 0x5A] []))
      (fun t => t.bytes .outBuf 2 == some [0x53, 0x4C] && t.outLen == 2) := by decide
/-- V42-25: the key is checked before the message "!!". -/
theorem test_affenc_key_before_message :
    nextHas (exec .affenc (withText 2 0 [0x21, 0x21] [])) (fun t => t.errCode == 2) := by decide
/-- V42-7: "AZ" with a = 7, b = 2^63 − 1 decodes to "ZK". -/
theorem test_affdec_extreme_key :
    nextHas (exec .affdec (withText 7 (2 ^ 63 - 1) [0x41, 0x5A] []))
      (fun t => t.bytes .outBuf 2 == some [0x5A, 0x4B]) := by decide
/-- V42-23: "123 !" holds no letter. -/
theorem test_affdec_empty :
    nextHas (exec .affdec (withText 5 8 [0x31, 0x32, 0x33, 0x20, 0x21] [])) (fun t => t.errCode == 1) := by decide
/-- V43-6: "ABCDEFG" with "CAB" gives "BEXCFXADG", 3 rows, 3 columns, ranks 2, 0, 1. -/
theorem test_colenc_pads :
    nextHas (exec .colenc (withText 0 0 [0x41, 0x42, 0x43, 0x44, 0x45, 0x46, 0x47] [0x43, 0x41, 0x42]))
      (fun t =>
        t.bytes .outBuf 9 == some [0x42, 0x45, 0x58, 0x43, 0x46, 0x58, 0x41, 0x44, 0x47] && t.outLen == 9 &&
        t.gridWord == 0x00030003 && t.bytes .rankBuf 3 == some [2, 0, 1]) := by decide
/-- V43-41: "1A!" is a key of one letter. -/
theorem test_colenc_short_key :
    nextHas (exec .colenc (withText 0 0 [0x48] [0x31, 0x41, 0x21])) (fun t => t.errCode == 2 && t.outLen == 0) := by decide
/-- V43-28: "ABCDE" with "KEY", ragged lengths 2, 2, 1, gives "CAEDB". -/
theorem test_coldec_ragged :
    nextHas (exec .coldec (withText 0 0 [0x41, 0x42, 0x43, 0x44, 0x45] [0x4B, 0x45, 0x59]))
      (fun t =>
        t.bytes .outBuf 5 == some [0x43, 0x41, 0x45, 0x44, 0x42] && t.outLen == 5 &&
        t.nrows == 2 && t.bytes .rankBuf 3 == some [1, 0, 2]) := by decide
/-- V43-23: "XX" with "AB" succeeds with an empty output. -/
theorem test_coldec_all_fillers :
    nextHas (exec .coldec (withText 0 0 [0x58, 0x58] [0x41, 0x42]))
      (fun t => t.outLen == 0 && !t.errf && t.nrows == 1 && t.ncols == 2) := by decide

/-! ## Lifecycle, bus and reset -/

/-- V40-3, V40-4: an illegal word does not clear KEY_VALID, completes with code 6, and reads back. -/
theorem test_illegal_word :
    nextHas (step { State.reset with busy := true, keyValid := true, cmd := 0x00000104 })
      (fun t => t.errCode == 6 && t.statusWord == 0x0E && t.cmd == 0x00000104) := by decide
/-- V40-6: a CMD write while busy sets WERR and leaves CMD. -/
theorem test_busy_cmd_write :
    windowAccess { State.reset with busy := true, cmd := 1 } 0x008 (.wr32 3) =
      ({ State.reset with busy := true, cmd := 1, werr := true }, .written) := by decide
/-- V40-9: STATUS write 0x12 clears DONE and WERR, not ERRF. -/
theorem test_status_w1c :
    (windowAccess { State.reset with done := true, werr := true, errf := true } 0x00C (.wr32 0x12)).1.statusWord = 0x04 := by
  decide
/-- V40-13: "HELL" reads as 0x4C4C4548. -/
theorem test_little_endian_read :
    (windowAccess (withText 0 0 [0x48, 0x45, 0x4C, 0x4C] []) 0x800 .rd32).2 = .data32 0x4C4C4548 := by decide
/-- V40-14: byte 2 of the word 0x44434241 is 0x43. -/
theorem test_little_endian_write :
    (windowAccess (windowAccess State.reset 0x800 (.wr32 0x44434241)).1 0x802 .rd8).2 = .data8 0x43 := by decide
/-- V40-15, V40-16, V40-17: bus errors. -/
theorem test_bus_errors :
    windowAccess State.reset 0x008 (.wr8 1) = (State.reset, .writeError) ∧
    windowAccess State.reset 0x802 .rd32 = (State.reset, .readError 0) ∧
    windowAccess State.reset 0x800 (.otherSize true 16) = (State.reset, .readError 0) := by decide
/-- V40-18, V40-19: reserved offsets and read-only targets. -/
theorem test_reserved_and_read_only :
    windowAccess State.reset 0x024 .rd32 = (State.reset, .data32 0) ∧
    windowAccess State.reset 0x030 (.wr32 0xFFFFFFFF) = (State.reset, .written) ∧
    windowAccess State.reset 0x058 (.wr32 5) = (State.reset, .written) ∧
    windowAccess State.reset 0x1000 (.wr8 0x41) = (State.reset, .written) ∧
    (windowAccess State.reset 0x000 .rd32).2 = .data32 0x4D455831 := by decide
/-- V40-20: the halves of OP1. -/
theorem test_operand_halves :
    (windowAccess (windowAccess State.reset 0x04C (.wr32 1)).1 0x048 (.wr32 2)).1.op1 = 0x100000002 := by decide
/-- V70-1: a soft reset of a busy block keeps IN_BUF and ignores IE. -/
theorem test_soft_reset :
    let s := { withText 97 0 [0x51] [] with cmd := 3 }
    (windowAccess s 0x004 (.wr32 3)).1 = { State.reset with mem := s.mem } := by decide
/-- V44-60: acceptance of RSAKEYGEN clears KEY_VALID and keeps the KEY registers. -/
theorem test_keygen_acceptance :
    (windowAccess { State.reset with keyValid := true, keyN := 33 } 0x008 (.wr32 4)).1 =
      { State.reset with keyN := 33, busy := true, cmd := 4 } := by decide
/-- The example of R410 (V40-21) and the neighbours of the letter ranges (V40-22). -/
theorem test_filter :
    filterText [0x48, 0x69, 0x2C, 0x20, 0x32, 0x55, 0x21] = [7, 8, 20] ∧
    filterText [0x40, 0x5B, 0x60, 0x7B, 0xC1, 0xE1, 0x00] = [] := by decide
/-- The examples of R550. -/
theorem test_column_order :
    columnOrder [25, 4, 1, 17, 0, 18] = [4, 2, 1, 3, 5, 0] ∧ columnOrder [1, 0, 13, 0, 13, 0] = [1, 3, 5, 0, 2, 4] := by
  decide
/-- The first step after reset with a placed command runs it: ISPRIME of 0 completes with RESULT 0 (R457). -/
theorem test_withFetchWord :
    nextHas (step (State.reset.withFetchWord 32 3)) (fun t => t.done && !t.busy && t.cmd == 3 && t.turns == []) := by decide
/-- R309: `SET64 OP0, 3` and `RUN RSAKEYGEN` as in program P1. -/
theorem test_expansions :
    expandScript 1 [.set64 .op0 (.imm 3), .run .rsakeygen] =
      [.wr32 0x040 (.num 3), .wr32 0x044 (.num 0), .wr32 0x008 (.num 4), .label (.fresh 2),
       .rd32 0x00C (.whole "s"), .bz (.mask (.whole "s") 2) (.fresh 2)] := by decide

/-! ## Witnesses: states and operands that meet the hypotheses of each statement of Certificates/Slice0/Obligations.lean, one
for each of its clauses, at boundary values where a clause has a range. -/

/-- A busy block with MODEXP of 4, 13, 497 pending (V41-1) and the engine's turn next. -/
def pendingModexp : State := { withOps 4 13 497 with cmd := 1, turns := [.engine] }

/-- The host access of a window offset. -/
def at_ (off : Nat) (op : BusOp) : BusAccess := { addr := Config.base + off, op := op }

theorem isPermitted_at {off : Nat} (h : off < 0x2000) (op : BusOp) : isPermitted (at_ off op) = permitted op off := by
  simp [isPermitted, at_, offsetOf_base_add h]

theorem witness_EncodedCommandRunsAsItself : Instr.wf .coldec = true := rfl

theorem illegal_7 (i : Instr) : (0x00000007 : Word32) ≠ encode i := by cases i <;> decide
theorem illegal_104 (i : Instr) : (0x00000104 : Word32) ≠ encode i := by cases i <;> decide

theorem witness_IllegalWordOnlyReportsIllegalCommand :
    (∃ w : Word32, (∀ i, w ≠ encode i) ∧ State.reset.busy = false) ∧
    (∃ (w : Word32) (s : State), (∀ i, w ≠ encode i) ∧ s.busy = true ∧ s.cmd = w ∧ s.turns = .engine :: []) :=
  ⟨⟨0x104, illegal_104, rfl⟩, ⟨0x7, { pendingModexp with cmd := 0x7 }, illegal_7, rfl, rfl, rfl⟩⟩

theorem witness_DisassemblySpellsEveryWord :
    (∃ w : Word32, ∀ i, w ≠ encode i) ∧ disassemble 0xFFFFFFFF = disassemble 0xFFFFFFFF := ⟨⟨0x7, illegal_7⟩, rfl⟩

/-- The value of written-out digits, as a person reads them. -/
theorem test_hexValue : hexValue ['0', '0', '0', '0', '1', '0', 'A', 'F'] = 4271 := by decide

theorem witness_CommandWriteIsAcceptedOrLost :
    pendingModexp.busy = true ∧ (State.reset.busy = false ∧ (4 : Word32) = 0x00000004) ∧
    (State.reset.busy = false ∧ (0x104 : Word32) ≠ 0x00000004) := by decide

theorem witness_EngineTurnRunsTheDecodedCommand :
    (pendingModexp.busy = true ∧ decode pendingModexp.cmd = .ok .modexp ∧ pendingModexp.turns = .engine :: []) ∧
    (let s := { pendingModexp with turns := [] }
     s.busy = true ∧ decode s.cmd = .ok .modexp ∧ s.turns = []) ∧
    (let s := { State.reset with turns := [.engine] }
     s.busy = false ∧ s.turns = .engine :: []) ∧
    (State.reset.busy = false ∧ State.reset.turns = []) := ⟨⟨rfl, rfl, rfl⟩, ⟨rfl, rfl, rfl⟩, ⟨rfl, rfl⟩, ⟨rfl, rfl⟩⟩

theorem witness_HostTurnIsOneAccess :
    isPermitted (at_ 0x1FFC .rd32) = true ∧ isPermitted (at_ 0x1FFE .rd32) = false ∧
    isPermitted (at_ 0x3FF .rd8) = false ∧ isPermitted (at_ 0x400 .rd8) = true ∧
    ({ State.reset with turns := [.powerOn] } : State).turns = .powerOn :: [] := by
  refine ⟨?_, ?_, ?_, ?_, rfl⟩
  · rw [isPermitted_at (by decide)]; decide
  · rw [isPermitted_at (by decide)]; decide
  · rw [isPermitted_at (by decide)]; decide
  · rw [isPermitted_at (by decide)]; decide

/-- Meets `exec i s = .next t` of EveryCompletionReportsItsOutcome, CommandsKeepTheirInputs, ResultCommandsFrame and
InterruptFollowsEnableAndDone, with a success, and NumericResultsAreInRange. -/
theorem witness_completion :
    (∃ t, exec .modexp pendingModexp = .next t ∧ (t.errCode == 0) = true) ∧
    (∃ t, exec .modinv (withOps 3 20 0) = .next t ∧ (t.errCode == 0) = true) ∧
    (∃ t, exec .isprime (withOps 2 0 0) = .next t ∧ (t.errCode == 0) = true) ∧
    (∃ t, exec .rsakeygen (withOps 2 3 0) = .next t ∧ (t.errCode == 0) = true) ∧
    (∃ t, exec .rsaenc (withOps 32 3 33) = .next t ∧ (t.errCode == 0) = true) ∧
    (∃ t, exec .rsadec (withOps 33 3 33) = .next t ∧ (t.errCode == 0) = true) :=
  ⟨next_of_nextHas (by decide), next_of_nextHas (by decide), next_of_nextHas (by decide), next_of_nextHas (by decide),
    next_of_nextHas (by decide), next_of_nextHas (by decide)⟩

/-- Two different states with the same inputs of MODINV and of AFFENC; the second faults. -/
theorem witness_OutcomeDependsOnlyOnListedInputs :
    (SameInputs .modinv (withOps 3 20 0) (withOps 3 20 9) ∧
      ∃ t, exec .modinv (withOps 3 20 0) = .next t ∧ (t.errCode == 0) = true) ∧
    (SameInputs .affenc { withOps 1 0 0 with inLen := 1 } { withOps 1 0 9 with inLen := 1 } ∧
      exec .affenc { withOps 1 0 0 with inLen := 1 } = .fault (.unwrittenByte .inBuf)) :=
  ⟨⟨⟨rfl, rfl⟩, next_of_nextHas (by decide)⟩, ⟨rfl, rfl, rfl, fun _ _ _ => rfl⟩, rfl⟩

theorem witness_ErrorsLeaveOutputsUnchanged :
    (∃ t, exec .modinv (withOps 4 26 0) = .next t ∧ (t.errCode != 0) = true) ∧
    (∃ t, exec .rsakeygen (withOps 7 7 0) = .next t ∧ (t.errCode != 0) = true) :=
  ⟨next_of_nextHas (by decide), next_of_nextHas (by decide)⟩

/-- "AB" in IN_BUF and "AB" in KEY_BUF. -/
def abText : State := withText 1 0 [0x41, 0x42] [0x41, 0x42]

theorem witness_EveryCommandCompletes :
    abText.TextWritten ∧ Instr.rsadec ∈ [Instr.modexp, .modinv, .isprime, .rsakeygen, .rsaenc, .rsadec] := by
  refine ⟨⟨fun k hk _ => ?_, fun k hk _ => ?_⟩, by decide⟩
  · have : k < 2 := hk
    have : k = 0 ∨ k = 1 := by omega
    rcases this with rfl | rfl <;> decide
  · have : k < 2 := hk
    have : k = 0 ∨ k = 1 := by omega
    rcases this with rfl | rfl <;> decide

/-- The faulting side of AffineFaultsOnlyOnUnwrittenBytes, at its last readable length. -/
theorem witness_AffineFaultsOnlyOnUnwrittenBytes :
    let s := { withOps 25 0 0 with inLen := 1024 }
    s.inLen.toNat ≤ 1024 ∧ s.op0.toInt ∈ [(1 : Int), 3, 5, 7, 9, 11, 15, 17, 19, 21, 23, 25] ∧ 0 < s.inLen.toNat ∧
    s.byte .inBuf 0 = none ∧ exec .affdec s = .fault (.unwrittenByte .inBuf) := ⟨by decide, by decide, by decide, rfl, rfl⟩

/-- Both faulting clauses of TranspositionFaultsOnlyOnUnwrittenBytes. -/
theorem witness_TranspositionFaultsOnlyOnUnwrittenBytes :
    exec .colenc { withOps 0 0 0 with keyLen := 64 } = .fault (.unwrittenByte .keyBuf) ∧
    exec .coldec { withText 0 0 [] [0x41, 0x42] with inLen := 1024 } = .fault (.unwrittenByte .inBuf) := ⟨rfl, rfl⟩

/-- A lost operand write and a STATUS read, quiet, while MODEXP is pending. -/
theorem witness_BusyAccessesNeitherDelayNorChangeTheCommand :
    let accs := [at_ 0x040 (.wr32 9), at_ 0x00C .rd32]
    let s := { pendingModexp with turns := accs.map Turn.host }
    s.busy = true ∧ decode s.cmd = .ok .modexp ∧ s.turns = accs.map Turn.host ∧
    (∀ a ∈ accs, isPermitted a = true ∧ isSoftReset a = false) ∧
    ∃ v, exec .modexp { s with turns := [] } = .next v ∧ (v.result == 445) = true := by
  refine ⟨rfl, rfl, rfl, fun a ha => ?_, next_of_nextHas (by decide)⟩
  simp only [List.mem_cons, List.not_mem_nil, or_false] at ha
  rcases ha with rfl | rfl
  · rw [isPermitted_at (by decide)]
    exact ⟨by decide, by simp [isSoftReset, at_, offsetOf_base_add (show 0x040 < 0x2000 by decide)]⟩
  · rw [isPermitted_at (by decide)]
    exact ⟨by decide, by simp [isSoftReset, at_, offsetOf_base_add (show 0x00C < 0x2000 by decide)]⟩

theorem witness_NormModIsTheResidue :
    0 < 26 ∧ (25 : Nat) < 26 ∧ ((26 : Nat) : Int) ∣ (-27 : Int) - (25 : Nat) := by decide

theorem witness_ModexpComputesThePower : (withOps 10 3 0).op2.toNat = 0 ∧ (withOps 0 0 1).op2.toNat ≠ 0 := by decide

theorem witness_ModinvComputesTheInverse :
    (withOps 5 0 0).op1.toNat = 0 ∧
    ((withOps 4 26 0).op1.toNat ≠ 0 ∧ Nat.gcd (withOps 4 26 0).op0.toNat (withOps 4 26 0).op1.toNat ≠ 1) ∧
    ((withOps 0 1 0).op1.toNat ≠ 0 ∧ Nat.gcd (withOps 0 1 0).op0.toNat (withOps 0 1 0).op1.toNat = 1) := by decide

theorem witness_IsprimeDecidesPrimality :
    Nat.Prime (withOps 2 0 0).op0.toNat ∧ ¬ Nat.Prime (withOps 1 0 0).op0.toNat := ⟨by decide, by decide⟩

/-- 2^61 − 1 is prime (V41-44), by the Lucas-Lehmer test. -/
theorem prime_mersenne_61 : Nat.Prime (2 ^ 61 - 1) := lucas_lehmer_sufficiency 61 (by norm_num) (by norm_num)

/-- All three clauses of RsakeygenMakesTheKey; (2^61 − 1) · 11 is past 2^64. -/
theorem witness_RsakeygenMakesTheKey :
    (¬ Nat.Prime (withOps 4 5 0).op0.toNat) ∧
    (Nat.Prime (withOps (2 ^ 61 - 1) 11 0).op0.toNat ∧ Nat.Prime (withOps (2 ^ 61 - 1) 11 0).op1.toNat ∧
      (withOps (2 ^ 61 - 1) 11 0).op0 ≠ (withOps (2 ^ 61 - 1) 11 0).op1 ∧
      2 ^ 64 ≤ (withOps (2 ^ 61 - 1) 11 0).op0.toNat * (withOps (2 ^ 61 - 1) 11 0).op1.toNat) ∧
    (Nat.Prime (withOps 2 3 0).op0.toNat ∧ Nat.Prime (withOps 2 3 0).op1.toNat ∧
      (withOps 2 3 0).op0 ≠ (withOps 2 3 0).op1 ∧ (withOps 2 3 0).op0.toNat * (withOps 2 3 0).op1.toNat < 2 ^ 64) := by
  refine ⟨by decide, ⟨?_, by decide, by decide, by decide⟩, by decide, by decide, by decide, by decide⟩
  rw [show (withOps (2 ^ 61 - 1) 11 0).op0.toNat = 2 ^ 61 - 1 from rfl]
  exact prime_mersenne_61

theorem witness_RsaencEncryptsResidues :
    (withOps 33 3 33).op2.toNat ≤ (withOps 33 3 33).op0.toNat ∧ (withOps 32 3 33).op0.toNat < (withOps 32 3 33).op2.toNat := by
  decide

theorem witness_RsadecDecryptsAnything : (withOps 5 7 0).op2.toNat = 0 ∧ (withOps 40 7 33).op2.toNat ≠ 0 := by decide

/-- The whole chain of RsaDecryptionInvertsEncryption, with the key of 3 and 11 and the message 32 = n − 1. -/
theorem witness_RsaDecryptionInvertsEncryption :
    (∃ t, exec .rsakeygen (withOps 3 11 0) = .next t ∧
      (t.errCode == 0 && t.keyN == 33 && t.keyE == 3 && t.keyD == 7) = true) ∧
    (withOps 32 3 33).op1 = 3 ∧ (withOps 32 3 33).op2 = 33 ∧ (withOps 32 3 33).op0.toNat < 33 ∧
    ∃ t1, exec .rsaenc (withOps 32 3 33) = .next t1 ∧ (t1.result == (withOps 32 7 33).op0) = true :=
  ⟨next_of_nextHas (by decide), by decide, by decide, by decide, next_of_nextHas (by decide)⟩

/-- Both outcomes of RsakeygenFrame. -/
theorem witness_RsakeygenFrame :
    (∃ t, exec .rsakeygen (withOps 3 11 0) = .next t ∧ t.keyValid = true) ∧
    (∃ t, exec .rsakeygen (withOps 3 3 0) = .next t ∧ (t.errCode != 0) = true) :=
  ⟨next_of_nextHas (by decide), next_of_nextHas (by decide)⟩

/-- A byte in each range of FilterKeepsExactlyTheLetters, at its ends. -/
theorem witness_FilterKeepsExactlyTheLetters :
    (0x41 ≤ (0x5A : Byte).toNat ∧ (0x5A : Byte).toNat ≤ 0x5A) ∧ (0x61 ≤ (0x7A : Byte).toNat ∧ (0x7A : Byte).toNat ≤ 0x7A) ∧
    (0x40 : Byte).toNat < 0x41 ∧ (0x5A < (0x60 : Byte).toNat ∧ (0x60 : Byte).toNat < 0x61) ∧ 0x7A < (0x7B : Byte).toNat := by
  decide

/-- Every clause of AffencEncodesTheMessage and AffdecDecodesTheMessage. -/
theorem witness_affine_clauses :
    1024 < ({ State.reset with inLen := 1025 } : State).inLen.toNat ∧
    (withText 27 0 [0x41] []).op0.toInt ∉ [(1 : Int), 3, 5, 7, 9, 11, 15, 17, 19, 21, 23, 25] ∧
    (withText 25 0 [0x21] []).op0.toInt ∈ [(1 : Int), 3, 5, 7, 9, 11, 15, 17, 19, 21, 23, 25] ∧
    (withText 25 0 [0x21] []).bytes .inBuf 1 = some [0x21] ∧ filterText [0x21] = [] ∧
    abText.bytes .inBuf abText.inLen.toNat = some [0x41, 0x42] ∧ filterText [0x41, 0x42] ≠ [] ∧
    (25 : Int) * 25 % 26 = 1 := by decide

/-- AFFENC of "AB" with a = 1, b = 0, and a state holding its output. -/
theorem witness_AffineDecodingInvertsEncoding :
    ∃ t, exec .affenc abText = .next t ∧
      (t.errCode == 0 && abText.inLen == t.outLen && abText.byte .inBuf 0 == t.byte .outBuf 0 &&
        abText.byte .inBuf 1 == t.byte .outBuf 1) = true := next_of_nextHas (by decide)

/-- Both outcomes of AffineFrame and of TranspositionFrame. -/
theorem witness_text_frames :
    (∃ t, exec .affdec abText = .next t ∧ (t.errCode == 0) = true) ∧
    (∃ t, exec .affenc { abText with inLen := 1025 } = .next t ∧ (t.errCode != 0) = true) ∧
    (∃ t, exec .coldec abText = .next t ∧ (t.errCode == 0) = true) ∧
    (∃ t, exec .colenc { abText with keyLen := 65 } = .next t ∧ (t.errCode != 0) = true) :=
  ⟨next_of_nextHas (by decide), next_of_nextHas (by decide), next_of_nextHas (by decide), next_of_nextHas (by decide)⟩

/-- Every clause of ColumnOrderIsTheStableSort, ColencTransposesTheGrid and ColdecRebuildsTheRows. -/
theorem witness_transposition_clauses :
    1024 < ({ State.reset with inLen := 1025 } : State).inLen.toNat ∧
    64 < ({ State.reset with keyLen := 65 } : State).keyLen.toNat ∧
    (withText 0 0 [0x41] [0x41]).bytes .keyBuf 1 = some [0x41] ∧ (filterText [0x41]).length < 2 ∧
    abText.inLen.toNat ≤ 1024 ∧ abText.keyLen.toNat ≤ 64 ∧
    abText.bytes .keyBuf abText.keyLen.toNat = some [0x41, 0x42] ∧ 2 ≤ (filterText [0x41, 0x42]).length ∧
    abText.bytes .inBuf abText.inLen.toNat = some [0x41, 0x42] ∧ filterText [0x41, 0x42] ≠ [] ∧
    (withText 0 0 [0x21] [0x41, 0x42]).bytes .inBuf 1 = some [0x21] ∧ filterText [0x21] = [] := by decide

/-- `n` times 'X' in IN_BUF and "ABC" in KEY_BUF; COLENC pads the 1024 of them that fit to 1026 Letters, all 'X'. -/
def fillers (n : Nat) : State :=
  { withOps 0 0 0 with
    inLen := BitVec.ofNat 32 n
    keyLen := 3
    mem := Memory.writeRun (Memory.writeRun [] 0x400 [0x41, 0x42, 0x43]) 0x800 (List.replicate n 0x58) }

theorem fillers_inBuf {n k : Nat} (h : k < n) : (fillers n).byte .inBuf k = some 0x58 := by
  rw [State.byte, fillers, Buf.start, Memory.read_writeRun_inside _ _ _ (by simpa using h)]
  simp

theorem fillers_message (n : Nat) : (fillers n).message n = some (List.replicate n filler) := by
  refine State.message_eq_some.2 ⟨List.replicate n 0x58, State.bytes_eq_some.2 ⟨by simp, fun i hi => ?_⟩, ?_⟩
  · rw [fillers_inBuf hi, List.getElem?_replicate, if_pos hi]
  · rw [filterText, List.filterMap_replicate_of_some (b := filler) (by decide)]

theorem fillers_keyword (n : Nat) : (fillers n).keyword 3 = some [0, 1, 2] := by
  refine State.keyword_eq_some.2 ⟨[0x41, 0x42, 0x43], State.bytes_eq_some.2 ⟨by simp, fun i hi => ?_⟩, by decide⟩
  rw [State.byte, fillers, Buf.start, Memory.read_writeRun_outside _ _ _ (by omega)]
  have : i = 0 ∨ i = 1 ∨ i = 2 := by omega
  rcases this with rfl | rfl | rfl <;> decide

/-- COLENC of nothing but 'X' writes nothing but 'X'. -/
theorem transposeEncode_fillers (n : Nat) :
    transposeEncode [0, 1, 2] (List.replicate n filler) =
      List.replicate (3 * ((n + (3 - n % 3) % 3) / 3)) filler := by
  have hQ : padMessage 3 (List.replicate n filler) = List.replicate (n + (3 - n % 3) % 3) filler := by
    simp [padMessage]
  have ho : columnOrder [0, 1, 2] = [0, 1, 2] := by decide
  refine List.eq_replicate_iff.2 ⟨?_, ?_⟩
  · simp [transposeEncode, ho, hQ]
    omega
  · simp only [transposeEncode, List.length_cons, List.length_nil, hQ, List.mem_flatMap, List.mem_map]
    rintro l ⟨c, -, row, -, rfl⟩
    rw [List.getD_eq_getElem?_getD, List.getElem?_replicate]
    split <;> rfl

/-- COLENC of `n` > 0 times 'X' that fit IN_BUF: what it answers. -/
theorem exec_colenc_fillers {n : Nat} (h0 : 0 < n) (h : n ≤ 1024) :
    ∃ t R, exec .colenc (fillers n) = .next t ∧ t.errCode = 0 ∧ t.outLen = BitVec.ofNat 32 (3 * R) ∧
      R = (n + (3 - n % 3) % 3) / 3 ∧ ∀ k, k < 3 * R → t.byte .outBuf k = some 0x58 := by
  have hin : (fillers n).inCount = n := by simp [State.inCount, u, fillers]; omega
  have hkey : (fillers n).keyCount = 3 := rfl
  have hlen : (fillers n).lengthsBad = false := by simp [State.lengthsBad, State.inLenBad, hin, hkey, Config.inMax, Config.keyMax, h]
  rcases columnCommand_cases transposeEncode (fillers n) with hc | hc | ⟨-, K, hK, hc⟩
  · simp [hlen] at hc
  · simp [hkey, fillers_keyword] at hc
  rw [hkey, fillers_keyword] at hK
  cases hK
  rw [hin, fillers_message] at hc
  rcases hc with hc | hc | hc | ⟨-, P, -, hP, hc⟩
  · exact absurd hc.1 (by decide)
  · simp at hc
  · simp at hc; omega
  cases hP
  rw [transposeEncode_fillers] at hc
  refine ⟨_, _, hc, rfl, by simp [State.writeOut], rfl, fun k hk => ?_⟩
  rw [State.byte]
  change Memory.read (Memory.writeRun (Memory.writeRun _ 0x1000 _) 0x440 _) (0x1000 + k) = _
  rw [Memory.read_writeRun_outside _ _ _ (by simp [rankBytes]; omega),
    Memory.read_writeRun_inside _ _ _ (by simpa using hk)]
  simp
  decide

/-- The InvalidNumber clause of TranspositionDecodingInvertsEncoding: an output of 1026 bytes, of which IN_BUF holds the
first 1024. -/
theorem witness_TranspositionOutputBeyondInBuf :
    ∃ s t s2 : State, exec .colenc s = .next t ∧ t.errCode = 0 ∧ s2.inLen = t.outLen ∧ s2.keyLen = s.keyLen ∧
      (∀ k, k < s.keyLen.toNat → s2.byte .keyBuf k = s.byte .keyBuf k) ∧
      (∀ k, k < t.outLen.toNat → k < 1024 → s2.byte .inBuf k = t.byte .outBuf k) ∧ 1024 < t.outLen.toNat := by
  obtain ⟨n, hn⟩ : ∃ n, n = 1024 := ⟨_, rfl⟩
  obtain ⟨t, R, he, h0, hl, hR, hb⟩ := exec_colenc_fillers (n := n) (by omega) (by omega)
  have hR' : R = 342 := by omega
  subst hR'
  refine ⟨fillers n, t, { fillers n with inLen := t.outLen }, he, h0, rfl, rfl, fun _ _ => rfl, fun k _ hk => ?_, ?_⟩
  · rw [hb k (by omega)]
    exact fillers_inBuf (by omega)
  · rw [hl]
    decide

/-- COLENC of "AB" with key "AB" is "AB": the same state holds the output as the next message. -/
theorem witness_TranspositionDecodingInvertsEncoding :
    (2 ≤ ([0, 1] : List Letter).length ∧ ([23] : List Letter) ≠ []) ∧
    ∃ t, exec .colenc abText = .next t ∧
      (t.errCode == 0 && abText.inLen == t.outLen && abText.byte .inBuf 0 == t.byte .outBuf 0 &&
        abText.byte .inBuf 1 == t.byte .outBuf 1 && decide (t.outLen.toNat ≤ 1024)) = true :=
  ⟨by decide, next_of_nextHas (by decide)⟩

theorem witness_WindowIsEightKibAtBase :
    0x1FFF < 0x2000 ∧ Config.base + 0x2000 ≤ ({ addr := Config.base + 0x2000, op := .rd32 } : BusAccess).addr :=
  ⟨by decide, Nat.le_refl _⟩

/-- Forbidden and permitted accesses at the ends of the ranges of ForbiddenAccessIsABusError. -/
theorem witness_ForbiddenAccessIsABusError :
    (0x1FFE % 4 ≠ 0 ∧ 0x1FFE < 0x2000) ∧ 0x1FFC % 4 = 0 ∧
    (¬ ((0x400 ≤ 0x480 ∧ 0x480 < 0x480) ∨ (0x800 ≤ 0x480 ∧ 0x480 < 0xC00) ∨ (0x1000 ≤ 0x480 ∧ 0x480 < 0x1800))) ∧
    ((0x1000 ≤ 0x17FF ∧ 0x17FF < 0x1800)) ∧
    ({ State.reset with turns := [.host (at_ 0x1FFE .rd32)] } : State).turns =
      .host { addr := Config.base + 0x1FFE, op := .rd32 } :: [] := ⟨by decide, by decide, by decide, by decide, rfl⟩

/-- A busy block, and an offset in each class of BusyWritesAreRefused and ReservedAndReadOnlyTargets. -/
theorem witness_write_classes :
    pendingModexp.busy = true ∧ 0x054 % 4 = 0 ∧ (0x040 ≤ 0x054 ∧ 0x054 < 0x058) ∧ (0x400 ≤ 0x43F ∧ 0x43F < 0x440) ∧
    (0x2 : Word32).getLsbD 1 = true ∧ (0x1 : Word32).getLsbD 1 = false ∧ (0x1FFC < 0x2000 ∧ 0x1FFC % 4 = 0 ∧ 0xC00 ≤ 0x1FFC) ∧
    (0x1000 ≤ 0x17FF ∧ 0x17FF < 0x1800) ∧ (0x024 ≤ 0x03C ∧ 0x03C < 0x040) ∧ (0x058 ≤ 0x07C ∧ 0x07C < 0x080) ∧
    ((0x4 : Word32).getLsbD 1 = false ∧ (0x4 : Word32).getLsbD 4 = false) ∧
    ((0x4 : Word32).getLsbD 0 = State.reset.ie) := by decide

theorem witness_ReadsHaveNoSideEffects :
    (at_ 0x00C .rd32).op.isRead = true ∧
    ∃ t, step { State.reset with turns := [.host (at_ 0x00C .rd32)] } = .next t ∧ t.resp = .data32 0 := by
  refine ⟨rfl, ?_⟩
  simp [step, hostTurn, busAccess, at_, offsetOf_base_add (show 0x00C < 0x2000 by decide), windowAccess, permitted,
    Response.isError, State.readWord, targetOf, reg32At, State.read32, State.statusWord, State.reset]

theorem witness_WordsAreLittleEndian :
    (1023 < Buf.inBuf.size ∧ (withText 0 0 (List.replicate 4 0x48) []).byte .inBuf 3 = some 0x48) ∧
    (let s := withText 0 0 [0x48, 0x45, 0x4C, 0x4F] []
     0 < Buf.inBuf.size ∧ 0 % 4 = 0 ∧ s.byte .inBuf 0 = some 0x48 ∧ s.byte .inBuf (0 + 1) = some 0x45 ∧
     s.byte .inBuf (0 + 2) = some 0x4C ∧ s.byte .inBuf (0 + 3) = some 0x4F) ∧
    (0xBFC % 4 = 0 ∧ inBuffer 0xBFC = true ∧ 3 < 4 ∧
      windowAccess (withText 0 0 [0x48, 0x45, 0x4C, 0x4C] []) 0x800 .rd32 =
        (withText 0 0 [0x48, 0x45, 0x4C, 0x4C] [], .data32 0x4C4C4548)) ∧
    (State.reset.busy = false ∧ (0x400 ≤ 0x43C ∧ 0x43C < 0x440)) := by decide

theorem witness_Set64StoresTheWholeOperand : State.reset.busy = false ∧ (Reg64.op2 = .op0 ∨ Reg64.op2 = .op1 ∨ Reg64.op2 = .op2) := by
  decide

theorem witness_LengthRegistersStoreTheWord : State.reset.busy = false := rfl

/-- A host at the given statement of a script, with no variable read. -/
def hostAt (block : State) (script : List HostStmt) (k : Nat) : HostSystem :=
  { block := block, script := script, at_ := k, vars := [] }

/-- A host at the read of the `WAIT` of a `RUN`, the block done and not done. -/
theorem witness_WaitLeavesOnDone :
    let script := expandIssue .isprime ++ expandWait 0 ++ [.halt]
    HostStmt.label (.fresh 0) ∉ expandIssue .isprime ∧
    (∃ h : HostSystem, h.script = script ∧ h.at_ = (expandIssue .isprime).length + 1 ∧ h.block.done = true) ∧
    (∃ h : HostSystem, h.script = script ∧ h.at_ = (expandIssue .isprime).length + 1 ∧ h.block.done = false) :=
  ⟨by decide, ⟨hostAt { State.reset with done := true } _ 2, rfl, rfl, rfl⟩, ⟨hostAt State.reset _ 2, rfl, rfl, rfl⟩⟩

theorem witness_Get64JoinsTheHalves :
    (∃ h : HostSystem, h.script = [.halt] ++ expandLine 0 (.get64 .result "v") ++ [] ∧ h.at_ = [HostStmt.halt].length) ∧
    (HostVar.lo "w").name ≠ "v" := ⟨⟨hostAt State.reset _ 1, rfl, rfl⟩, by decide⟩

/-- R307, R309: a 32-bit `$v`, a 64-bit `$v` joined from its halves, and a half that was never read. -/
theorem test_host_variables :
    let h : HostSystem := { hostAt State.reset [] 0 with vars := [("v", .halves (some 2) (some 1)), ("v", .word 7), ("w", .word 5),
      ("u", .halves (some 3) none)] }
    h.varValue (.whole "v") = some 0x100000002 ∧ h.varValue (.hi "v") = some 1 ∧ h.varValue (.whole "w") = some 5 ∧
    h.varValue (.lo "u") = some 3 ∧ h.varValue (.whole "u") = none ∧ h.varValue (.lo "w") = none := by decide

/-- R307: a branch on a 64-bit `$v` whose low word is 0 is taken by BNZ. -/
theorem test_branch_on_64_bits :
    ({ hostAt State.reset [.bnz (.val (.whole "v")) (.named "l"), .halt, .label (.named "l")] 0 with
        vars := [("v", .halves (some 0) (some 1))] } : HostSystem).stmtStep =
      .next { hostAt State.reset [.bnz (.val (.whole "v")) (.named "l"), .halt, .label (.named "l")] 2 with
        vars := [("v", .halves (some 0) (some 1))] } := rfl

/-- The clauses of ControlWriteStoresOrResets, InterruptFollowsEnableAndDone and ResetValues on written data. -/
theorem witness_control_words :
    (0x1 : Word32).getLsbD 1 = false ∧ (0x3 : Word32).getLsbD 1 = true ∧ State.reset.busy = false ∧ 0x07C % 4 = 0 ∧
    0x07C < 0x080 := by decide

/-- A host turn that is no soft reset and answers a next state. -/
theorem witness_OutputsChangeOnlyAtCompletion :
    isSoftReset (at_ 0x00C .rd32) = false ∧
    ∃ t, step { pendingModexp with turns := [.host (at_ 0x00C .rd32)] } = .next t ∧ t.resp = .data32 1 := by
  refine ⟨by simp [isSoftReset, at_, offsetOf_base_add (show 0x00C < 0x2000 by decide)], ?_⟩
  simp [step, hostTurn, busAccess, at_, offsetOf_base_add (show 0x00C < 0x2000 by decide), windowAccess, permitted,
    Response.isError, State.readWord, targetOf, reg32At, State.read32, State.statusWord, pendingModexp, withOps, State.reset]

/-- An acceptance, which sets BUSY. -/
theorem witness_flag_busy :
    ∃ t, step { State.reset with turns := [.host (at_ 0x008 (.wr32 3))] } = .next t ∧ State.reset.busy = false ∧
      t.busy = true := by
  simp [step, hostTurn, busAccess, at_, offsetOf_base_add (show 0x008 < 0x2000 by decide), windowAccess, permitted,
    Response.isError, State.writeWord, targetOf, reg32At, State.write32, State.issue, State.guarded, State.accept,
    State.reset]

/-- A refused write, which sets WERR. -/
theorem witness_flag_werr :
    ∃ t, step { pendingModexp with turns := [.host (at_ 0x008 (.wr32 3))] } = .next t ∧ pendingModexp.werr = false ∧
      t.werr = true := by
  simp [step, hostTurn, busAccess, at_, offsetOf_base_add (show 0x008 < 0x2000 by decide), windowAccess, permitted,
    Response.isError, State.writeWord, targetOf, reg32At, State.write32, State.issue, State.guarded, State.refuseWrite,
    pendingModexp, withOps, State.reset]

/-- Engine steps that set DONE and KEY_VALID, and DONE and ERRF; a power-on that clears KEY_VALID. -/
theorem witness_flags_engine :
    (∃ t, step { withOps 3 11 0 with cmd := 4 } = .next t ∧ (t.done && t.keyValid) = true) ∧
    (∃ t, step { withOps 3 3 0 with cmd := 4 } = .next t ∧ (t.done && t.errf) = true) ∧
    (∃ t, step { State.reset with keyValid := true, turns := [.powerOn] } = .next t ∧ (!t.keyValid) = true) :=
  ⟨next_of_nextHas (by decide), next_of_nextHas (by decide), next_of_nextHas (by decide)⟩

/-- The same for the clearing events: an acknowledgement, a STATUS write that clears WERR, and an acceptance. -/
theorem witness_flags_cleared :
    (∃ t, step { State.reset with done := true, turns := [.host (at_ 0x00C (.wr32 2))] } = .next t ∧ t.done = false) ∧
    (∃ t, step { State.reset with werr := true, turns := [.host (at_ 0x00C (.wr32 0x10))] } = .next t ∧ t.werr = false) ∧
    (∃ t, step { State.reset with done := true, keyValid := true, turns := [.host (at_ 0x008 (.wr32 4))] } = .next t ∧
      t.done = false ∧ t.keyValid = false) ∧
    (∃ t, step { withOps 2 0 0 with cmd := 3, errf := true } = .next t ∧ (!t.errf && !t.busy) = true) := by
  refine ⟨?_, ?_, ?_, next_of_nextHas (by decide)⟩ <;>
    simp [step, hostTurn, busAccess, at_, offsetOf_base_add, windowAccess, permitted, Response.isError, State.writeWord,
      targetOf, reg32At, State.write32, State.writeStatus, State.issue, State.guarded, State.accept, State.reset]

/-- Two memories built in different orders. -/
theorem witness_CanonicalMemoriesAreEqualWhenReadAlike :
    let m := Memory.write (Memory.write [] 0x800 1) 0x400 2
    let m' := Memory.write (Memory.write [] 0x400 2) 0x800 1
    Memory.wf m = true ∧ Memory.wf m' = true ∧ m = m' := by decide

/-- The reset state meets the invariant of StepKeepsTheInvariant after an accepted command that answers a next state. -/
theorem witness_StepKeepsTheInvariant :
    ∃ t, step { State.reset with busy := true, cmd := 3 } = .next t ∧ (t.done) = true := next_of_nextHas (by decide)

theorem witness_invariant_busy : ({ State.reset with busy := true, cmd := 3 } : State).Inv := by
  refine ⟨⟨rfl, fun _ _ => rfl⟩, ⟨by decide, by decide, fun _ => rfl, fun _ _ => rfl⟩, fun h => by simp [State.reset] at h,
    by decide, fun i hi => by simp [State.reset] at hi, by decide, by decide, fun c hc => by simp [State.reset] at hc⟩

end Sys2Proof.Tests
end

