-- ==== Sys2Proof/Proofs/Scope.lean ====
section
/-! PROOFS. What `normMod` answers (00_scope.md R13). -/

namespace Sys2Proof.Machine

theorem dvd_sub_normMod (n : Int) {m : Nat} (hm : 0 < m) : (m : Int) ∣ n - normMod n m := by
  rw [normMod_cast n hm]
  exact Int.dvd_self_sub_emod

/-- A number below `m` is its own remainder, and it is congruent to `n`. -/
theorem eq_normMod_of_dvd_sub {n : Int} {m r : Nat} (hr : r < m) (hdvd : (m : Int) ∣ n - r) : r = normMod n m := by
  have hcast : (r : Int) = normMod n m := calc
    (r : Int) = r % m := (Int.emod_eq_of_lt (by omega) (by omega)).symm
    _ = n % m := Int.modEq_of_dvd hdvd
    _ = normMod n m := (normMod_cast n (by omega)).symm
  exact_mod_cast hcast

/-- Settles O17: `normMod` is the integer remainder, so it has both properties, and congruent numbers below `m` have one
remainder. -/
theorem normModIsTheResidue : Obligations.NormModIsTheResidue := by
  intro n m hm
  exact ⟨normMod_lt n hm, dvd_sub_normMod n hm, fun _ => eq_normMod_of_dvd_sub⟩

end Sys2Proof.Machine
end

section
/-! PROOFS. The number-theory primitives that RSAKEYGEN runs, and the key tuple they give
(41_modular_arithmetic.md R452, R453, R457; 44_rsa.md R600). -/

namespace Sys2Proof.Machine

/-! ## Primality (R457) -/

/-- With enough rounds, the trial division from `d` looks for a divisor at every `k` from `d` up to the root of `n`. -/
theorem isPrimeLoop_eq_true {n fuel d : Nat} (hd : 2 ≤ d) (hfuel : n ≤ fuel + d) :
    isPrimeLoop n fuel d = true ↔ ∀ k, d ≤ k → k * k ≤ n → ¬ k ∣ n := by
  induction fuel generalizing d with
  | zero =>
    refine iff_of_true rfl fun k hk hkn => ?_
    have : 2 * k ≤ k * k := Nat.mul_le_mul_right k (hd.trans hk)
    omega
  | succ fuel ih =>
    have hsplit : (∀ k, d ≤ k → k * k ≤ n → ¬ k ∣ n) ↔
        (d * d ≤ n → ¬ d ∣ n) ∧ ∀ k, d + 1 ≤ k → k * k ≤ n → ¬ k ∣ n :=
      ⟨fun h => ⟨h d le_rfl, fun k hk => h k (by omega)⟩,
        fun h k hk => hk.eq_or_lt.elim (fun e => e ▸ h.1) (h.2 k)⟩
    rw [hsplit, ← ih (by omega) (by omega), isPrimeLoop]
    by_cases hdn : d * d ≤ n
    · simp [hdn, Nat.dvd_iff_mod_eq_zero]
    · have hover : isPrimeLoop n fuel (d + 1) = true := by
        refine (ih (by omega) (by omega)).2 fun k hk hkn => ?_
        have : d * d ≤ k * k := Nat.mul_self_le_mul_self (by omega)
        omega
      simp [hdn, hover]

theorem isPrime_eq_true {n : Nat} : isPrime n = true ↔ Nat.Prime n := by
  rw [isPrime, Nat.prime_def_le_sqrt]
  split
  · next h => simp [show ¬ 2 ≤ n by omega]
  · next h => simp [isPrimeLoop_eq_true, Nat.le_sqrt, show 2 ≤ n by omega]

/-! ## The extended gcd and the inverse (R452, R453) -/

/-- With enough calls, `ExtGcd` gives the gcd and two coefficients that make it. -/
theorem extGcdWithin_spec {fuel a b : Nat} (hfuel : b < fuel) :
    (extGcdWithin fuel a b).1 = Nat.gcd a b ∧
    (a : Int) * (extGcdWithin fuel a b).2.1 + b * (extGcdWithin fuel a b).2.2 = Nat.gcd a b := by
  induction fuel generalizing a b with
  | zero => omega
  | succ fuel ih =>
    rw [extGcdWithin]
    by_cases hb : b = 0
    · simp [hb]
    · have hlt : a % b < b := Nat.mod_lt a (by omega)
      obtain ⟨hg, hbez⟩ := ih (a := b) (b := a % b) (by omega)
      have hgcd : Nat.gcd b (a % b) = Nat.gcd a b := by rw [Nat.gcd_comm a b, Nat.gcd_rec b a, Nat.gcd_comm]
      rw [if_neg hb]
      refine ⟨hg.trans hgcd, ?_⟩
      have hdiv : (b : Int) * (a / b : Nat) + (a % b : Nat) = a := by exact_mod_cast Nat.div_add_mod a b
      rw [← hgcd, ← hbez]
      linear_combination (-(extGcdWithin fuel b (a % b)).2.2) * hdiv

theorem extGcd_fst (a b : Nat) : (extGcd a b).1 = Nat.gcd a b := (extGcdWithin_spec (Nat.lt_succ_self b)).1

theorem extGcd_bezout (a b : Nat) : (a : Int) * (extGcd a b).2.1 + b * (extGcd a b).2.2 = Nat.gcd a b :=
  (extGcdWithin_spec (Nat.lt_succ_self b)).2

/-- `ModInvExt` answers exactly for coprime arguments, with the first Bezout coefficient reduced. -/
theorem modInvExt_eq (a m : Nat) :
    modInvExt a m = if Nat.gcd a m = 1 then some (normMod (extGcd a m).2.1 m) else none := by
  simp only [modInvExt, extGcd_fst]

/-- The reduced Bezout coefficient is an inverse. -/
theorem mul_normMod_bezout_mod {a m : Nat} (hm : 1 < m) (h : Nat.gcd a m = 1) :
    a * normMod (extGcd a m).2.1 m % m = 1 := by
  have hbez : (a : Int) * (extGcd a m).2.1 = 1 - m * (extGcd a m).2.2 := by
    rw [eq_sub_iff_add_eq, extGcd_bezout, h, Nat.cast_one]
  have hint : ((a * normMod (extGcd a m).2.1 m : Nat) : Int) % m = 1 := calc
    ((a * normMod (extGcd a m).2.1 m : Nat) : Int) % m = a * (extGcd a m).2.1 % m := by
      rw [Nat.cast_mul, normMod_cast _ (by omega)]
      simp [Int.mul_emod]
    _ = 1 % m := by rw [hbez, Int.sub_mul_emod_self_left]
    _ = 1 := Int.emod_eq_of_lt (by omega) (by omega)
  exact_mod_cast hint

/-! ## The public exponent (44_rsa.md R600) -/

/-- If some number that the search reaches is coprime with `phi`, the search answers the first such number. -/
theorem publicExponentLoop_spec {phi fuel e c : Nat} (hec : e ≤ c) (hcf : c < e + fuel) (hc : Nat.gcd c phi = 1) :
    e ≤ publicExponentLoop phi fuel e ∧ publicExponentLoop phi fuel e ≤ c ∧
    Nat.gcd (publicExponentLoop phi fuel e) phi = 1 ∧
    ∀ k, e ≤ k → k < publicExponentLoop phi fuel e → Nat.gcd k phi ≠ 1 := by
  induction fuel generalizing e with
  | zero => omega
  | succ fuel ih =>
    rw [publicExponentLoop, gcdOf]
    by_cases he : Nat.gcd e phi = 1
    · rw [if_pos he]
      exact ⟨le_rfl, hec, he, fun k hk hke => by omega⟩
    · have hne : e ≠ c := fun h => he (h ▸ hc)
      obtain ⟨hlow, hup, hgcd, hfirst⟩ := ih (e := e + 1) (by omega) (by omega)
      rw [if_neg he]
      exact ⟨by omega, hup, hgcd, fun k hk hke =>
        hk.eq_or_lt.elim (fun h => h ▸ he) fun h => hfirst k h hke⟩

/-- The search ends by `phi + 1`, which is coprime with `phi`. -/
theorem publicExponent_spec {phi : Nat} (h : 0 < phi) :
    2 ≤ publicExponent phi ∧ publicExponent phi ≤ phi + 1 ∧ Nat.gcd (publicExponent phi) phi = 1 ∧
    ∀ k, 2 ≤ k → k < publicExponent phi → Nat.gcd k phi ≠ 1 :=
  publicExponentLoop_spec (by omega) (by omega) (by simp)

/-! ## The key tuple (44_rsa.md R600) -/

/-- The decryption exponent that RSAKEYGEN computes is below `phi` and inverts the public one. -/
theorem privateExponent_spec {e phi : Nat} (hphi : 1 < phi) (h : Nat.gcd e phi = 1) :
    privateExponent e phi < phi ∧ e * privateExponent e phi % phi = 1 := by
  rw [privateExponent, modInvExt_eq, if_pos h, Option.getD_some]
  exact ⟨normMod_lt _ (by omega), mul_normMod_bezout_mod hphi h⟩

/-- Two distinct primes have a totient between 1 and their product, with room for the public exponent. -/
theorem totient_bounds {p q : Nat} (hp : Nat.Prime p) (hq : Nat.Prime q) (hne : p ≠ q) :
    1 < (p - 1) * (q - 1) ∧ (p - 1) * (q - 1) + 1 < p * q := by
  obtain ⟨p, rfl⟩ := Nat.exists_eq_add_of_le' hp.two_le
  obtain ⟨q, rfl⟩ := Nat.exists_eq_add_of_le' hq.two_le
  have hcases : 0 < p ∨ 0 < q := by omega
  simp only [show p + 2 - 1 = p + 1 by omega, show q + 2 - 1 = q + 1 by omega]
  constructor
  · rcases hcases with h | h <;> nlinarith
  · nlinarith

/-- The tuple of a successful RSAKEYGEN is a good key. -/
theorem goodKey_of_primes {p q : Nat} (hp : Nat.Prime p) (hq : Nat.Prime q) (hne : p ≠ q) :
    GoodKey (p * q) ((p - 1) * (q - 1)) (publicExponent ((p - 1) * (q - 1)))
      (privateExponent (publicExponent ((p - 1) * (q - 1))) ((p - 1) * (q - 1))) := by
  obtain ⟨hphi, -⟩ := totient_bounds hp hq hne
  obtain ⟨htwo, -, hgcd, hfirst⟩ := publicExponent_spec (Nat.lt_of_succ_lt hphi)
  obtain ⟨hd, hed⟩ := privateExponent_spec hphi hgcd
  exact ⟨⟨p, q, hp, hq, hne, rfl, rfl⟩, htwo, hgcd, hfirst, hd, hed⟩

/-- Every part of a good key is at most its modulus. -/
theorem GoodKey.le_modulus {n phi e d : Nat} (h : GoodKey n phi e d) : phi ≤ n ∧ e ≤ n ∧ d ≤ n := by
  obtain ⟨⟨p, q, hp, hq, hne, rfl, rfl⟩, -, hgcd, hfirst, hd, -⟩ := h
  obtain ⟨hphi, hn⟩ := totient_bounds hp hq hne
  have he : e ≤ (p - 1) * (q - 1) + 1 := by
    by_contra hlt
    exact hfirst ((p - 1) * (q - 1) + 1) (by omega) (by omega) (by simp)
  omega

end Sys2Proof.Machine
end

section
/-! PROOFS. What each command's next state can be, once for all ten commands, and from it the commands' frames
(40_codec_and_command.md R404; 60_exceptions.md R702; 10_state.md R108 to R117). -/

namespace Sys2Proof.Machine

/-! ## How long a text and an output can be -/

theorem filterText_length_le (bs : List Byte) : (filterText bs).length ≤ bs.length := List.length_filterMap_le _ _

theorem State.message_length_le {s : State} {n : Nat} {P : List Letter} (h : s.message n = some P) : P.length ≤ n := by
  obtain ⟨bs, hbs, rfl⟩ := State.message_eq_some.1 h
  exact (State.bytes_eq_some.1 hbs).1 ▸ filterText_length_le bs

theorem State.keyword_length_le {s : State} {n : Nat} {K : List Letter} (h : s.keyword n = some K) : K.length ≤ n := by
  obtain ⟨bs, hbs, rfl⟩ := State.keyword_eq_some.1 h
  exact (State.bytes_eq_some.1 hbs).1 ▸ filterText_length_le bs

theorem State.inLenBad_eq_false {s : State} : s.inLenBad = false ↔ s.inCount ≤ 1024 := by
  rw [State.inLenBad, decide_eq_false_iff_not, Nat.not_lt, Config.inMax]

theorem State.lengthsBad_eq_false {s : State} : s.lengthsBad = false ↔ s.inCount ≤ 1024 ∧ s.keyCount ≤ 64 := by
  rw [State.lengthsBad, Bool.or_eq_false_iff, State.inLenBad_eq_false, decide_eq_false_iff_not, Nat.not_lt,
    Config.keyMax]

theorem insertColumn_perm (K : List Letter) (c : Nat) (ds : List Nat) : (insertColumn K c ds).Perm (c :: ds) := by
  induction ds with
  | nil => rfl
  | cons d ds ih =>
    rw [insertColumn]
    split
    · rfl
    · exact (ih.cons d).trans (.swap c d ds)

/-- The order of the columns is a permutation of the columns (43_transposition.md R550). -/
theorem columnOrder_perm (K : List Letter) : (columnOrder K).Perm (List.range K.length) := by
  unfold columnOrder
  induction List.range K.length with
  | nil => rfl
  | cons c cs ih => exact (insertColumn_perm K c _).trans (ih.cons c)

theorem columnRank_lt {K : List Letter} {c : Nat} (h : c < K.length) : columnRank K c < K.length := by
  have hmem : c ∈ columnOrder K := (columnOrder_perm K).mem_iff.2 (List.mem_range.2 h)
  simpa [columnRank, (columnOrder_perm K).length_eq] using List.idxOf_lt_length_iff.2 hmem

/-- COLENC pads the message by less than one row (43_transposition.md R551). -/
theorem transposeEncode_length_lt {K : List Letter} (P : List Letter) (hK : 0 < K.length) :
    (transposeEncode K P).length < P.length + K.length := by
  have hpad : (padMessage K.length P).length < P.length + K.length := by
    simp [padMessage, Nat.mod_lt _ hK]
  have hlen : (transposeEncode K P).length = K.length * ((padMessage K.length P).length / K.length) := by
    simp [transposeEncode, List.length_flatMap, (columnOrder_perm K).length_eq]
  exact hlen ▸ (Nat.mul_div_le _ _).trans_lt hpad

/-- The grid is larger than the message by less than one row. -/
theorem gridRows_mul_lt {L : Nat} (N : Nat) (hL : 0 < L) : gridRows L N * L < N + L := by
  have := Nat.div_mul_le_self (N + L - 1) L
  rw [gridRows]
  omega

/-- COLDEC rebuilds at most a full grid (43_transposition.md R552). -/
theorem transposeDecode_length_lt {K : List Letter} (C : List Letter) (hK : 0 < K.length) :
    (transposeDecode K C).length < C.length + K.length := by
  have hstrip : (transposeDecode K C).length ≤ (rebuildRows K C).length := by
    have hsuffix := List.dropWhile_suffix (· == filler) (l := (rebuildRows K C).reverse)
    simpa [transposeDecode, stripFiller] using hsuffix.length_le
  have hrows : (rebuildRows K C).length ≤ gridRows K.length C.length * K.length := by
    rw [rebuildRows, List.length_flatMap]
    refine (List.sum_le_card_nsmul _ K.length ?_).trans (by simp)
    simp only [List.mem_map]
    rintro _ ⟨row, -, rfl⟩
    exact (List.length_filterMap_le _ _).trans_eq List.length_range
  exact (hstrip.trans hrows).trans_lt (gridRows_mul_lt _ hK)

/-! ## The next states of a command -/

/-- The commands whose only output is RESULT (10_state.md R111). -/
def resultCommands : List Instr := [.modexp, .modinv, .isprime, .rsaenc, .rsadec]

/-- `CommandAnswers s i t`: from `s`, the command `i` can answer the next state `t`, with what its rule says of the
values it stores. -/
inductive CommandAnswers (s : State) : Instr → State → Prop where
  | error {i : Instr} (hi : i ≠ .rsakeygen) {e : CmdError} (he : e ≠ .illegalCommand) :
      CommandAnswers s i (s.complete (some e))
  | keyError {e : CmdError} (he : e ≠ .illegalCommand) :
      CommandAnswers s .rsakeygen ((s.putKey 0 0 0 0).complete (some e))
  | result {i : Instr} (hi : i ∈ resultCommands) (v : Nat) : CommandAnswers s i ((s.putResult v).complete none)
  | key {n phi e d : Nat} (hn : n < 2 ^ 64) (hkey : GoodKey n phi e d) :
      CommandAnswers s .rsakeygen ((s.putKey n phi e d).validateKey.complete none)
  | text {i : Instr} (hi : i = .affenc ∨ i = .affdec) {T : List Letter} (hT : T.length ≤ 1024) :
      CommandAnswers s i ((s.writeOut T).complete none)
  | grid {i : Instr} (hi : i = .colenc ∨ i = .coldec) {K T : List Letter} {rows : Nat} (hK2 : 2 ≤ K.length)
      (hK : K.length ≤ 64) (hT : T.length ≤ 1087) (hrows : rows ≤ 1024) :
      CommandAnswers s i ((((s.writeOut T).putGrid rows K.length).putBytes .rankBuf (rankBytes K)).complete none)

theorem resultCommand_answers {i : Instr} {s t : State} (hi : i ∈ resultCommands) (h : exec i s = .next t) :
    CommandAnswers s i t := by
  have hkey : i ≠ .rsakeygen := by rintro rfl; simp [resultCommands] at hi
  cases i with
  | modexp | rsaenc | rsadec =>
    simp only [exec, execModexp, execRsaenc, execRsadec] at h
    split at h <;> cases h
    · exact .error hkey (by decide)
    · exact .result hi _
  | modinv =>
    simp only [exec, execModinv] at h
    split at h
    · cases h
      exact .error hkey (by decide)
    · split at h <;> cases h
      · exact .error hkey (by decide)
      · exact .result hi _
  | isprime =>
    cases h
    exact .result hi _
  | rsakeygen | affenc | affdec | colenc | coldec => simp [resultCommands] at hi

theorem rsakeygen_answers {s t : State} (h : exec .rsakeygen s = .next t) : CommandAnswers s .rsakeygen t := by
  obtain ⟨-, he⟩ | ⟨-, -, -, -, he⟩ | ⟨hp, hq, hne, hn, _, _, rfl, rfl, he⟩ := execRsakeygen_cases s <;>
    cases he.symm.trans h
  · exact .keyError (by decide)
  · exact .keyError (by decide)
  · exact .key hn (goodKey_of_primes (isPrime_eq_true.1 hp) (isPrime_eq_true.1 hq) hne)

theorem affineCommand_answers {i : Instr} (hi : i = .affenc ∨ i = .affdec) {f : Int → Int → Letter → Letter}
    {s t : State} (h : affineCommand f s = .next t) : CommandAnswers s i t := by
  have hkey : i ≠ .rsakeygen := by rintro rfl; simp at hi
  obtain ⟨-, he⟩ | ⟨-, -, he⟩ | ⟨-, -, -, he⟩ | ⟨-, -, -, he⟩ | ⟨hlen, -, P, -, hP, he⟩ := affineCommand_cases f s <;>
    cases he.symm.trans h
  · exact .error hkey (by decide)
  · exact .error hkey (by decide)
  · exact .error hkey (by decide)
  · refine .text hi ?_
    rw [List.length_map]
    exact (State.message_length_le hP).trans (State.inLenBad_eq_false.1 hlen)

theorem columnCommand_answers {i : Instr} (hi : i = .colenc ∨ i = .coldec) {f : List Letter → List Letter → List Letter}
    (hf : ∀ {K : List Letter} (P : List Letter), 0 < K.length → (f K P).length < P.length + K.length) {s t : State}
    (h : columnCommand f s = .next t) : CommandAnswers s i t := by
  have hkey : i ≠ .rsakeygen := by rintro rfl; simp at hi
  obtain ⟨-, he⟩ | ⟨-, -, he⟩ | ⟨hlen, K, hK, ⟨-, he⟩ | ⟨-, -, he⟩ | ⟨-, -, he⟩ | ⟨hK2, P, -, hP, he⟩⟩ :=
    columnCommand_cases f s <;> cases he.symm.trans h
  · exact .error hkey (by decide)
  · exact .error hkey (by decide)
  · exact .error hkey (by decide)
  · obtain ⟨hin, hkeyLen⟩ := State.lengthsBad_eq_false.1 hlen
    have hPle := State.message_length_le hP
    have hKle := State.keyword_length_le hK
    have hout := hf P (K := K) (by omega)
    have hgrid := gridRows_mul_lt P.length (L := K.length) (by omega)
    have htwo := Nat.mul_le_mul_left (gridRows K.length P.length) hK2
    exact .grid hi hK2 (by omega) (by omega) (by omega)

/-- Every next state of a command is one of the listed ones. -/
theorem exec_answers {i : Instr} {s t : State} (h : exec i s = .next t) : CommandAnswers s i t := by
  cases i with
  | modexp | modinv | isprime | rsaenc | rsadec => exact resultCommand_answers (by simp [resultCommands]) h
  | rsakeygen => exact rsakeygen_answers h
  | affenc | affdec => exact affineCommand_answers (by simp) h
  | colenc => exact columnCommand_answers (by simp) transposeEncode_length_lt h
  | coldec => exact columnCommand_answers (by simp) transposeDecode_length_lt h

/-! ## Frames -/

/-- A state that keeps the memory keeps every byte. -/
theorem sameMemoryOutside_of_mem_eq {s t : State} (written : Nat → Prop) (h : t.mem = s.mem) :
    SameMemoryOutside written s t := fun _ _ => h ▸ rfl

@[simp] theorem outcomeCode_some_ne_zero (e : CmdError) : outcomeCode (some e) ≠ 0#4 := by cases e <;> decide

@[simp] theorem outcomeCode_none : outcomeCode none = 0#4 := rfl

/-- Settles O23: of what a command can answer, only an error and a RESULT concern these five. -/
theorem resultCommandsFrame : Obligations.ResultCommandsFrame := by
  intro i s t hi h
  cases exec_answers h with
  | error => exact ⟨rfl, sameMemoryOutside_of_mem_eq _ rfl⟩
  | result => exact ⟨rfl, sameMemoryOutside_of_mem_eq _ rfl⟩
  | keyError | key => simp at hi
  | text hi' => rcases hi' with rfl | rfl <;> simp at hi
  | grid hi' => rcases hi' with rfl | rfl <;> simp at hi

/-- Settles O28: RSAKEYGEN answers a zeroed key with an error, or a key made valid. -/
theorem rsakeygenFrame : Obligations.RsakeygenFrame := by
  intro s t h
  cases exec_answers h with
  | keyError => exact ⟨rfl, fun _ => rfl, sameMemoryOutside_of_mem_eq _ rfl⟩
  | key => exact ⟨rfl, fun hcode => absurd rfl hcode, sameMemoryOutside_of_mem_eq _ rfl⟩
  | error hi => exact absurd rfl hi
  | result hi => simp [resultCommands] at hi
  | text hi => simp at hi
  | grid hi => simp at hi

/-- A run of bytes put into a buffer keeps every other byte. -/
theorem sameMemoryOutside_putBytes (s : State) (b : Buf) (bs : List Byte) :
    SameMemoryOutside (fun x => b.start ≤ x ∧ x < b.start + bs.length) s (s.putBytes b bs) :=
  fun _ hx => Memory.read_writeRun_outside _ _ _ (by omega)

/-- An output that fits the 32-bit OUT_LEN. -/
theorem State.writeOut_outLen_toNat (s : State) {T : List Letter} (hT : T.length ≤ 1087) :
    (s.writeOut T).outLen.toNat = T.length := by
  rw [State.writeOut_outLen, BitVec.toNat_ofNat, Nat.mod_eq_of_lt (by omega)]

/-- `writeOut` keeps every byte outside OUT_BUF[0 .. OUT_LEN-1] (40_codec_and_command.md R414). -/
theorem sameMemoryOutside_writeOut (s : State) {T : List Letter} (hT : T.length ≤ 1087) :
    SameMemoryOutside (fun x => Buf.outBuf.start ≤ x ∧ x < Buf.outBuf.start + (s.writeOut T).outLen.toNat) s
      (s.writeOut T) := by
  rw [State.writeOut_outLen_toNat s hT, ← List.length_map (as := T) letterByte]
  exact sameMemoryOutside_putBytes s .outBuf (T.map letterByte)

/-- Settles O35: AFFENC and AFFDEC answer an error, or an output written from OUT_BUF[0] up. -/
theorem affineFrame : Obligations.AffineFrame := by
  intro i s t hi h
  cases exec_answers h with
  | @error _ _ e _ =>
    exact ⟨rfl, fun hcode => absurd hcode (outcomeCode_some_ne_zero e),
      fun _ => ⟨rfl, sameMemoryOutside_of_mem_eq _ rfl⟩⟩
  | text _ hT => exact ⟨rfl, fun _ => sameMemoryOutside_writeOut s (by omega), fun hcode => absurd rfl hcode⟩
  | keyError | key => simp at hi
  | result hi' => rcases hi with rfl | rfl <;> simp [resultCommands] at hi'
  | grid hi' => rcases hi with rfl | rfl <;> simp at hi'

theorem rankBytes_length (K : List Letter) : (rankBytes K).length = K.length := by simp [rankBytes]

/-- A key length that fits the 16-bit NCOLS. -/
theorem State.putGrid_ncols_toNat (s : State) (rows : Nat) {cols : Nat} (h : cols ≤ 64) :
    (s.putGrid rows cols).ncols.toNat = cols := by
  rw [State.putGrid_ncols, BitVec.toNat_ofNat, Nat.mod_eq_of_lt (by omega)]

/-- Settles O40: COLENC and COLDEC answer an error, or an output written from OUT_BUF[0] up and one rank a column
written from RANK_BUF[0] up. -/
theorem transpositionFrame : Obligations.TranspositionFrame := by
  intro i s t hi h
  cases exec_answers h with
  | @error _ _ e _ =>
    exact ⟨rfl, fun hcode => absurd hcode (outcomeCode_some_ne_zero e),
      fun _ => ⟨rfl, rfl, rfl, sameMemoryOutside_of_mem_eq _ rfl⟩⟩
  | @grid _ _ K T rows _ hK hT _ =>
    refine ⟨by simp only [State.complete, State.putBytes, State.putGrid, State.writeOut], fun _ x hx => ?_,
      fun hcode => absurd rfl hcode⟩
    obtain ⟨hout, hrank⟩ := not_or.1 hx
    have hcols : ((s.writeOut T).putGrid rows K.length).ncols.toNat = (rankBytes K).length := by
      rw [State.putGrid_ncols_toNat _ _ hK, rankBytes_length]
    exact (sameMemoryOutside_putBytes _ .rankBuf (rankBytes K) x (hcols ▸ hrank)).trans
      (sameMemoryOutside_writeOut s hT x hout)
  | keyError | key => simp at hi
  | result hi' => rcases hi with rfl | rfl <;> simp [resultCommands] at hi'
  | text hi' => rcases hi with rfl | rfl <;> simp at hi'

end Sys2Proof.Machine
end

section
/-! PROOFS. The host's word accesses of the registers: what each reads, what each write leaves (10_state.md R101 to
R110, R118, R123; 30_encoding.md R309). -/

namespace Sys2Proof.Machine

/-! ## Accesses by register -/

theorem targetOf_reg32_offset (r : Reg32) : targetOf r.offset = .reg32 r := by cases r <;> rfl

theorem targetOf_reg64_low (r : Reg64) : targetOf r.offset = .half r false := by cases r <;> rfl

theorem targetOf_reg64_high (r : Reg64) : targetOf (r.offset + 4) = .half r true := by cases r <;> rfl

theorem Reg32.offset_mod_four (r : Reg32) : r.offset % 4 = 0 := by cases r <;> rfl

theorem Reg32.offset_ne_zero {r : Reg32} (hid : r ≠ .id) : r.offset ≠ 0 := by
  cases r with
  | id => exact absurd rfl hid
  | ctrl | cmd | status | err | inLen | keyLen | outLen | grid => decide

/-- A word-aligned offset that decodes to a 32-bit register is that register's. -/
theorem off_eq_offset_of_targetOf {off : Nat} {r : Reg32} (h : targetOf off = .reg32 r) (h4 : off % 4 = 0) :
    off = r.offset := by
  have hlt : off < 0x024 := by
    by_contra hge
    rw [targetOf, if_neg hge] at h
    repeat' split at h
    all_goals cases h
  rw [targetOf_reg32 hlt] at h
  cases h
  obtain ⟨k, rfl⟩ := Nat.dvd_of_mod_eq_zero h4
  have hk : k < 9 := by omega
  interval_cases k <;> rfl

theorem windowAccess_rd32_reg32 (s : State) (r : Reg32) :
    windowAccess s r.offset .rd32 = (s, .data32 (s.read32 r)) := by
  rw [windowAccess_rd32 s r.offset_mod_four, State.readWord_reg32 s (targetOf_reg32_offset r)]

theorem windowAccess_wr32_reg32 (s : State) (r : Reg32) (d : Word32) :
    windowAccess s r.offset (.wr32 d) = (s.write32 r d, .written) := by
  rw [windowAccess_wr32 s d r.offset_mod_four, State.writeWord_reg32 s d (targetOf_reg32_offset r)]

theorem windowAccess_wr32_low (s : State) (r : Reg64) (d : Word32) :
    windowAccess s r.offset (.wr32 d) = (s.writeHalf r false d, .written) := by
  have := r.offset_bounds
  rw [windowAccess_wr32 s d (by omega), State.writeWord_half s d (targetOf_reg64_low r)]

theorem windowAccess_wr32_high (s : State) (r : Reg64) (d : Word32) :
    windowAccess s (r.offset + 4) (.wr32 d) = (s.writeHalf r true d, .written) := by
  have := r.offset_bounds
  rw [windowAccess_wr32 s d (by omega), State.writeWord_half s d (targetOf_reg64_high r)]

/-! ## What the writes leave -/

theorem State.guarded_idle {s : State} (stored : State) (h : s.busy = false) : s.guarded stored = stored := by
  simp [State.guarded, h]

theorem State.writeCtrl_store (s : State) {d : Word32} (h : d.getLsbD 1 = false) :
    s.writeCtrl d = { s with ie := d.getLsbD 0 } := if_neg (by rw [h]; decide)

theorem State.writeCtrl_reset (s : State) {d : Word32} (h : d.getLsbD 1 = true) : s.writeCtrl d = s.softReset :=
  if_pos h

/-! ## What the reads give -/

theorem State.ctrlWord_eq (s : State) : s.ctrlWord = if s.ie then 1 else 0 := by
  unfold State.ctrlWord
  cases s.ie <;> rfl

/-- The bits of STATUS (10_state.md R104). -/
theorem State.statusWord_bits (s : State) :
    s.statusWord.getLsbD 0 = s.busy ∧ s.statusWord.getLsbD 1 = s.done ∧ s.statusWord.getLsbD 2 = s.errf ∧
    s.statusWord.getLsbD 3 = s.keyValid ∧ s.statusWord.getLsbD 4 = s.werr ∧ s.statusWord.toNat < 32 := by
  unfold State.statusWord
  cases s.busy <;> cases s.done <;> cases s.errf <;> cases s.keyValid <;> cases s.werr <;> decide

theorem State.errWord_toNat (s : State) : s.errWord.toNat = s.errCode.toNat :=
  (BitVec.toNat_append 0 s.errCode).trans (by simp)

/-- The fields of GRID (10_state.md R109). -/
theorem State.gridWord_fields (s : State) :
    s.gridWord.extractLsb' 0 16 = s.nrows ∧ s.gridWord.extractLsb' 16 16 = s.ncols :=
  ⟨BitVec.extractLsb'_append_eq_right, BitVec.extractLsb'_append_eq_left⟩

/-- Settles O59: each register's offset decodes to it. -/
theorem registersReadTheirFields : Obligations.RegistersReadTheirFields := by
  intro s
  exact ⟨windowAccess_rd32_reg32 s .id, windowAccess_rd32_reg32 s .cmd,
    ⟨_, windowAccess_rd32_reg32 s .err, s.errWord_toNat⟩, windowAccess_rd32_reg32 s .inLen,
    windowAccess_rd32_reg32 s .keyLen, windowAccess_rd32_reg32 s .outLen,
    ⟨_, windowAccess_rd32_reg32 s .grid, s.gridWord_fields⟩⟩

/-- Settles O60: an idle block lets the guarded write through. -/
theorem lengthRegistersStoreTheWord : Obligations.LengthRegistersStoreTheWord := by
  intro s d hidle
  refine ⟨?_, ?_, congrArg Prod.snd (windowAccess_rd32_reg32 _ .inLen),
    congrArg Prod.snd (windowAccess_rd32_reg32 _ .keyLen)⟩
  · exact (windowAccess_wr32_reg32 s .inLen d).trans (congrArg (·, _) (State.guarded_idle _ hidle))
  · exact (windowAccess_wr32_reg32 s .keyLen d).trans (congrArg (·, _) (State.guarded_idle _ hidle))

/-- Settles O49: the two cases of a CTRL write. -/
theorem controlWriteStoresOrResets : Obligations.ControlWriteStoresOrResets := by
  intro s d
  refine ⟨fun h => ?_, fun h => ?_, ?_⟩
  · exact (windowAccess_wr32_reg32 s .ctrl d).trans (congrArg (·, _) (s.writeCtrl_store h))
  · exact (windowAccess_wr32_reg32 s .ctrl d).trans (congrArg (·, _) (s.writeCtrl_reset h))
  · exact (windowAccess_rd32_reg32 s .ctrl).trans (by rw [State.read32, s.ctrlWord_eq])

/-- Settles O50: STATUS is its five flags, and a write keeps DONE and WERR only where its bit is 0. -/
theorem statusReadsFlagsAndClearsByOne : Obligations.StatusReadsFlagsAndClearsByOne := by
  intro s d
  exact ⟨⟨_, windowAccess_rd32_reg32 s .status, s.statusWord_bits⟩,
    _, windowAccess_wr32_reg32 s .status d, rfl, by simp [State.write32], by simp [State.write32]⟩

theorem CommandAnswers.done {i : Instr} {s t : State} (h : CommandAnswers s i t) : t.done = true := by cases h <;> rfl

theorem CommandAnswers.ie {i : Instr} {s t : State} (h : CommandAnswers s i t) : t.ie = s.ie := by cases h <;> rfl

/-- Settles O51: a completion sets DONE and keeps IE; the other events store IE, clear DONE or reset both. -/
theorem interruptFollowsEnableAndDone : Obligations.InterruptFollowsEnableAndDone := by
  intro s
  have hctrl (d : Word32) : (windowAccess s 0x004 (.wr32 d)).1 = s.writeCtrl d :=
    congrArg Prod.fst (windowAccess_wr32_reg32 s .ctrl d)
  have hcmd (d : Word32) : (windowAccess s 0x008 (.wr32 d)).1 = s.issue d :=
    congrArg Prod.fst (windowAccess_wr32_reg32 s .cmd d)
  have hstatus (d : Word32) : (windowAccess s 0x00C (.wr32 d)).1 = s.writeStatus d :=
    congrArg Prod.fst (windowAccess_wr32_reg32 s .status d)
  refine ⟨by simp [State.irq], fun i t h => ?_, fun d hd => ?_, fun w hidle => ?_, fun d hd => ?_, ?_, ?_, ?_⟩
  · have hanswers := exec_answers h
    rw [State.irq, hanswers.done, hanswers.ie, Bool.and_true]
  · simp [hstatus, State.irq, hd]
  · simp [hcmd, State.irq, State.issue, State.guarded_idle _ hidle]
  · simp [hctrl, State.irq, State.writeCtrl_reset s hd]
  · rw [hctrl, State.writeCtrl_store s (by decide)]
    exact Bool.true_and _
  · rw [hctrl, State.writeCtrl_store s (by decide)]
    exact Bool.false_and _
  · rw [hctrl, State.writeCtrl_store s (by decide)]

/-! ## After a reset -/

theorem State.get64_softReset (s : State) (r : Reg64) : s.softReset.get64 r = 0 := by cases r <;> rfl

theorem State.read32_softReset (s : State) {r : Reg32} (hid : r ≠ .id) : s.softReset.read32 r = 0 := by
  cases r with
  | id => exact absurd rfl hid
  | cmd | inLen | keyLen | outLen => rfl
  | ctrl => rw [State.read32, State.ctrlWord_eq, State.softReset_ie, if_neg Bool.false_ne_true]
  | status =>
    simp only [State.read32, State.statusWord, State.softReset_werr, State.softReset_keyValid, State.softReset_errf,
      State.softReset_done, State.softReset_busy]
    decide
  | err =>
    simp only [State.read32, State.errWord, State.softReset_errCode]
    decide
  | grid =>
    simp only [State.read32, State.gridWord, State.softReset_ncols, State.softReset_nrows]
    decide

/-- After a soft reset every word below 0x080 reads 0, but ID (10_state.md R123). -/
theorem State.readWord_softReset (s : State) {off : Nat} (h4 : off % 4 = 0) (h : off < 0x080) :
    s.softReset.readWord off = if off = 0 then 0x4D455831 else 0 := by
  rcases (by omega : off < 0x024 ∨ (0x024 ≤ off ∧ off < 0x040) ∨ 0x040 ≤ off) with hreg | hres | hhalf
  · obtain ⟨r, hr⟩ : ∃ r, targetOf off = .reg32 r := ⟨_, targetOf_reg32 hreg⟩
    obtain rfl := off_eq_offset_of_targetOf hr h4
    rw [State.readWord_reg32 _ hr]
    by_cases hid : r = .id
    · subst hid
      rfl
    · rw [State.read32_softReset s hid, if_neg (Reg32.offset_ne_zero hid)]
  · rw [State.readWord_reserved _ (targetOf_reserved (.inl hres)), if_neg (by omega)]
  · rw [State.readWord_half _ (targetOf_half hhalf h), State.get64_softReset, if_neg (by omega)]
    cases off / 4 % 2 == 1 <;> rfl

/-- Settles O52: the reset state is its own soft reset, with no byte in memory. -/
theorem resetValues : Obligations.ResetValues := by
  refine ⟨fun off h4 h => ?_, fun b k => rfl, rfl, rfl, rfl, fun s off d hd h4 h => ?_⟩
  · rw [windowAccess_rd32 _ h4, show State.reset = State.reset.softReset from rfl, State.readWord_softReset _ h4 h]
  · refine ⟨s.softReset, ?_, ?_, fun b k => rfl⟩
    · exact (windowAccess_wr32_reg32 s .ctrl d).trans (congrArg (·, _) (s.writeCtrl_reset hd))
    · rw [windowAccess_rd32 _ h4, State.readWord_softReset _ h4 h]

/-! ## The operand registers (10_state.md R110) -/

/-- The registers that store a host write. -/
def operandRegisters : List Reg64 := [.op0, .op1, .op2]

theorem State.writeHalf_idle {s : State} {r : Reg64} (high : Bool) (d : Word32) (hidle : s.busy = false)
    (hr : r ∈ operandRegisters) : s.writeHalf r high d = s.setHalf64 r high d := by
  cases r with
  | op0 | op1 | op2 => exact State.guarded_idle _ hidle
  | result | keyN | keyPhi | keyE | keyD => simp [operandRegisters] at hr

@[simp] theorem State.setHalf64_busy (s : State) (r : Reg64) (high : Bool) (d : Word32) :
    (s.setHalf64 r high d).busy = s.busy := by cases r <;> rfl

/-- A write of one half changes no field but the operands. -/
theorem State.setHalf64_frame (s : State) (r : Reg64) (high : Bool) (d : Word32) :
    s.setHalf64 r high d =
      { s with
        op0 := (s.setHalf64 r high d).op0
        op1 := (s.setHalf64 r high d).op1
        op2 := (s.setHalf64 r high d).op2 } := by cases r <;> rfl

theorem State.get64_setHalf64_self (s : State) {r : Reg64} (high : Bool) (d : Word32) (hr : r ∈ operandRegisters) :
    (s.setHalf64 r high d).get64 r = setHalf (s.get64 r) high d := by
  cases r with
  | op0 | op1 | op2 => rfl
  | result | keyN | keyPhi | keyE | keyD => simp [operandRegisters] at hr

theorem State.get64_setHalf64_other (s : State) {r q : Reg64} (high : Bool) (d : Word32) (hq : q ≠ r) :
    (s.setHalf64 r high d).get64 q = s.get64 q := by
  cases r <;> cases q <;> first | rfl | exact absurd rfl hq

/-- Writing both halves of `x` leaves `x`. -/
theorem setHalf_getHalf (v x : Word64) : setHalf (setHalf v false (getHalf x false)) true (getHalf x true) = x := by
  have hlow : (setHalf v false (getHalf x false)).extractLsb' 0 32 = x.extractLsb' 0 32 :=
    BitVec.extractLsb'_append_eq_right
  exact (congrArg (x.extractLsb' 32 32 ++ ·) hlow).trans BitVec.extractLsb'_append_extractLsb'

/-- Settles O47: the two writes replace the two halves of the register and touch no other. -/
theorem set64StoresTheWholeOperand : Obligations.Set64StoresTheWholeOperand := by
  intro s r z hidle hr
  have hop : r ∈ operandRegisters := by simpa [operandRegisters] using hr
  refine ⟨_, _, rfl, _, rfl, ?_⟩
  simp only [windowAccess_wr32_low, windowAccess_wr32_high]
  rw [State.writeHalf_idle false _ hidle hop, State.writeHalf_idle true _ (by simpa using hidle) hop]
  refine ⟨?_, ?_, fun q hq => ?_⟩
  · rw [State.get64_setHalf64_self _ _ _ hop, State.get64_setHalf64_self _ _ _ hop, setHalf_getHalf, BitVec.toNat_ofInt]
    omega
  · exact (State.setHalf64_frame _ r true _).trans (by rw [State.setHalf64_frame s r false])
  · rw [State.get64_setHalf64_other _ _ _ hq, State.get64_setHalf64_other _ _ _ hq]

end Sys2Proof.Machine
end

section
/-! PROOFS. What a host access and a step can leave, once, and from it the flags' events and the block's invariant
(10_state.md R104, R113, R120; 20_memory.md R206 to R209; 60_exceptions.md R700). -/

namespace Sys2Proof.Machine

/-! ## What one host access leaves -/

/-- `AccessLeaves s a t`: the host access `a` can leave the state `t` of the block, and what it then was. -/
inductive AccessLeaves (s : State) (a : BusAccess) : State → Prop where
  | same : AccessLeaves s a s
  | refused (hbusy : s.busy = true) (hwrite : a.op.isRead = false) : AccessLeaves s a s.refuseWrite
  | softReset (hreset : isSoftReset a = true) : AccessLeaves s a s.softReset
  | control (ie : Bool) : AccessLeaves s a { s with ie := ie }
  | status {d : Word32} (hoff : offsetOf a.addr = some 0x00C) (hop : a.op = .wr32 d) :
      AccessLeaves s a (s.writeStatus d)
  | accept {w : Word32} (hidle : s.busy = false) (hoff : offsetOf a.addr = some 0x008) (hop : a.op = .wr32 w) :
      AccessLeaves s a (s.accept w)
  | inLen (d : Word32) : AccessLeaves s a { s with inLen := d }
  | keyLen (d : Word32) : AccessLeaves s a { s with keyLen := d }
  | operand (r : Reg64) (high : Bool) (d : Word32) : AccessLeaves s a (s.setHalf64 r high d)
  | buffer {b : Buf} {off : Nat} {bs : List Byte} (hb : b = .inBuf ∨ b = .keyBuf) (hlow : b.start ≤ off)
      (hhigh : off + bs.length ≤ b.start + b.size) : AccessLeaves s a { s with mem := Memory.writeRun s.mem off bs }

theorem isSoftReset_of_ctrl_write {a : BusAccess} {d : Word32} (hoff : offsetOf a.addr = some 0x004)
    (hop : a.op = .wr32 d) (hd : d.getLsbD 1 = true) : isSoftReset a = true := by
  simpa [isSoftReset, hoff, hop] using hd

theorem write32_leaves {s : State} {a : BusAccess} {r : Reg32} {d : Word32} (hoff : offsetOf a.addr = some r.offset)
    (hop : a.op = .wr32 d) : AccessLeaves s a (s.write32 r d) := by
  obtain h | ⟨hbusy, h⟩ | ⟨rfl, hd, h⟩ | ⟨-, -, h⟩ | ⟨rfl, h⟩ | ⟨hidle, rfl, h⟩ | ⟨-, -, h⟩ | ⟨-, -, h⟩ :=
    s.write32_cases r d <;> rw [h]
  · exact .same
  · exact .refused hbusy (by rw [hop]; rfl)
  · exact .softReset (isSoftReset_of_ctrl_write hoff hop hd)
  · exact .control _
  · exact .status hoff hop
  · exact .accept hidle hoff hop
  · exact .inLen d
  · exact .keyLen d

theorem writeBuffer_leaves {s : State} {a : BusAccess} {b : Buf} {off : Nat} {bs : List Byte}
    (hwrite : a.op.isRead = false) (hlow : b.start ≤ off) (hhigh : off + bs.length ≤ b.start + b.size) :
    AccessLeaves s a (s.writeBuffer b off bs) := by
  obtain h | ⟨hbusy, h⟩ | ⟨-, hb, h⟩ := s.writeBuffer_cases b off bs <;> rw [h]
  · exact .same
  · exact .refused hbusy hwrite
  · exact .buffer hb hlow hhigh

/-- The word at a word-aligned offset of a buffer lies inside the buffer. -/
theorem word_inside_buffer {off : Nat} {b : Buf} (h : targetOf off = .buffer b) (h4 : off % 4 = 0) :
    off + 4 ≤ b.start + b.size := by
  obtain ⟨-, hlt⟩ := targetOf_buffer_range h
  cases b <;> simp only [Buf.start, Buf.size, Config.keyMax, Config.inMax, Config.outMax] at hlt ⊢ <;> omega

theorem windowAccess_leaves {s : State} {a : BusAccess} {off : Nat} (hoff : offsetOf a.addr = some off) :
    AccessLeaves s a (windowAccess s off a.op).1 := by
  obtain h | ⟨r, d, hop, ht, h4, h⟩ | ⟨r, high, d, hop, ht, h4, h⟩ | ⟨b, d, hop, ht, h4, h⟩ | ⟨b, d, hop, ht, h⟩ :=
    windowAccess_cases s off a.op <;> rw [h]
  · exact .same
  · exact write32_leaves (off_eq_offset_of_targetOf ht h4 ▸ hoff) hop
  · obtain h | ⟨hbusy, h⟩ | ⟨-, -, h⟩ := s.writeHalf_cases r high d <;> rw [h]
    · exact .same
    · exact .refused hbusy (by rw [hop]; rfl)
    · exact .operand r high d
  · exact writeBuffer_leaves (by rw [hop]; rfl) (targetOf_buffer_range ht).1 (word_inside_buffer ht h4)
  · exact writeBuffer_leaves (by rw [hop]; rfl) (targetOf_buffer_range ht).1 (targetOf_buffer_range ht).2

theorem busAccess_leaves (s : State) (a : BusAccess) : AccessLeaves s a (busAccess s a).1 := by
  unfold busAccess
  split
  · exact .same
  · next off hoff => exact windowAccess_leaves hoff

/-! ## What one step leaves -/

theorem toNat_of_decodeOpc {opc : BitVec 8} {i : Instr} (h : decodeOpc opc = some i) :
    opc.toNat = (encode i).toNat := by
  unfold decodeOpc at h
  split at h <;> cases h <;> assumption

/-- A word decodes to a command only if it is that command's word (30_encoding.md R301). -/
theorem eq_encode_of_decode {w : Word32} {i : Instr} (h : decode w = .ok i) : w = encode i := by
  unfold decode at h
  split at h
  · next hrsvd =>
    have hhigh : w.toNat / 2 ^ 8 % 2 ^ 24 = 0 := by
      simpa [rsvdField, BitVec.extractLsb'_toNat, Nat.shiftRight_eq_div_pow] using congrArg BitVec.toNat hrsvd
    have hlow : (opcField w).toNat = w.toNat % 2 ^ 8 := by simp [opcField]
    have hlt := w.isLt
    split at h
    · next j hj =>
      cases h
      have hopc := toNat_of_decodeOpc hj
      exact BitVec.eq_of_toNat_eq (by omega)
    · cases h
  · cases h

/-- `EngineLeaves s t`: what the engine's turn can leave, from a block whose turn is already taken. -/
inductive EngineLeaves (s : State) : State → Prop where
  | idle (hidle : s.busy = false) : EngineLeaves s s
  | command {i : Instr} {t : State} (hbusy : s.busy = true) (hcmd : s.cmd = encode i) (h : CommandAnswers s i t) :
      EngineLeaves s t
  | illegal (hbusy : s.busy = true) : EngineLeaves s (s.complete (some .illegalCommand))

theorem engineTurn_leaves {s t : State} (h : engineTurn s = .next t) : EngineLeaves s t := by
  obtain ⟨hidle, he⟩ | ⟨hbusy, i, hi, he⟩ | ⟨hbusy, _, -, he⟩ := engineTurn_cases s
  · cases he.symm.trans h
    exact .idle hidle
  · exact .command hbusy (eq_encode_of_decode hi) (exec_answers (he.symm.trans h))
  · cases he.symm.trans h
    exact .illegal hbusy

/-- `s` with its next turn taken from `turns`. -/
def State.takeTurn (s : State) : State := { s with turns := s.turns.tail }

/-- Every next state of a step, by whose turn it was (20_memory.md R212). -/
theorem step_leaves {s t : State} (h : step s = .next t) :
    (s.TakesEngine ∧ EngineLeaves s.takeTurn t) ∨
    (∃ a u, s.turns.head? = some (.host a) ∧ AccessLeaves s.takeTurn a u ∧ ∃ r, t = { u with resp := r }) ∨
    (s.turns.head? = some .powerOn ∧ t = s.takeTurn.powerOnReset) := by
  obtain ⟨hts, he⟩ | ⟨ts, hts, he⟩ | ⟨a, ts, hts, he⟩ | ⟨ts, hts, he⟩ := step_cases s
  · have htake : s.takeTurn = s := by cases s; cases hts; rfl
    exact .inl ⟨.inl (by rw [hts]; rfl), htake.symm ▸ engineTurn_leaves (he.symm.trans h)⟩
  all_goals have htake : s.takeTurn = { s with turns := ts } := by rw [State.takeTurn, hts]; rfl
  · exact .inl ⟨.inr (by rw [hts]; rfl), htake.symm ▸ engineTurn_leaves (he.symm.trans h)⟩
  · obtain ⟨-, ht⟩ := hostTurn_next (he.symm.trans h)
    exact .inr (.inl ⟨a, _, by rw [hts]; rfl, htake.symm ▸ busAccess_leaves _ a, _, ht⟩)
  · cases he.symm.trans h
    exact .inr (.inr ⟨by rw [hts]; rfl, by rw [htake]⟩)

end Sys2Proof.Machine
end

section
/-! PROOFS. Which events set and clear the flags (10_state.md R120). -/

namespace Sys2Proof.Machine

/-- What a command leaves in the flags: the completion's BUSY and DONE, ERRF by its outcome, WERR kept, and KEY_VALID
set by a successful RSAKEYGEN only. -/
theorem CommandAnswers.flags {i : Instr} {s t : State} (h : CommandAnswers s i t) :
    t.busy = false ∧ t.done = true ∧ (t.errf = true ↔ t.errCode ≠ 0) ∧ t.werr = s.werr ∧
    (t.keyValid = s.keyValid ∨ (i = .rsakeygen ∧ t.errCode = 0 ∧ t.keyValid = true)) := by
  cases h with
  | error | keyError | result | text | grid => simp
  | key => simp

/-- The flags' table of 10_state.md R120 over one step. -/
def FlagsChangeAsListed (s t : State) : Prop :=
  (s.busy = false → t.busy = true → ∃ w, s.TakesWrite 0x008 w ∧ t.cmd = w) ∧
  (s.busy = true → t.busy = false → (s.TakesEngine ∧ t.done = true) ∨ s.TakesReset) ∧
  (s.done = false → t.done = true → s.busy = true ∧ t.busy = false ∧ s.TakesEngine) ∧
  (s.done = true → t.done = false →
    (s.busy = false ∧ t.busy = true ∧ ∃ w, s.TakesWrite 0x008 w) ∨
    (∃ d, s.TakesWrite 0x00C d ∧ d.getLsbD 1 = true) ∨ s.TakesReset) ∧
  (s.errf = false → t.errf = true → s.busy = true ∧ t.busy = false ∧ t.errCode ≠ 0 ∧ s.TakesEngine) ∧
  (s.errf = true → t.errf = false →
    (s.busy = true ∧ t.busy = false ∧ t.done = true ∧ t.errCode = 0 ∧ s.TakesEngine) ∨ s.TakesReset) ∧
  (s.keyValid = false → t.keyValid = true →
    s.busy = true ∧ s.cmd = 0x00000004 ∧ t.errCode = 0 ∧ t.busy = false ∧ s.TakesEngine) ∧
  (s.keyValid = true → t.keyValid = false →
    (s.TakesWrite 0x008 0x00000004 ∧ s.busy = false) ∨ s.TakesReset) ∧
  (s.werr = false → t.werr = true → s.busy = true ∧ ∃ a ts, s.turns = .host a :: ts ∧ a.op.isRead = false) ∧
  (s.werr = true → t.werr = false → (∃ d, s.TakesWrite 0x00C d ∧ d.getLsbD 4 = true) ∨ s.TakesReset)

/-- A flag that keeps its value does not change, whatever the table asks of a change. -/
theorem flag_unchanged {P : Prop} {b c v : Bool} (hsame : c = b) (h : b = v) (h' : c = !v) : P := by
  cases v <;> simp_all

theorem flagsChangeAsListed_of_same {s t : State} (hbusy : t.busy = s.busy) (hdone : t.done = s.done)
    (herrf : t.errf = s.errf) (hkey : t.keyValid = s.keyValid) (hwerr : t.werr = s.werr) : FlagsChangeAsListed s t :=
  ⟨flag_unchanged hbusy, flag_unchanged hbusy, flag_unchanged hdone, flag_unchanged hdone, flag_unchanged herrf,
    flag_unchanged herrf, flag_unchanged hkey, flag_unchanged hkey, flag_unchanged hwerr, flag_unchanged hwerr⟩

theorem flagsChangeAsListed_of_completion {s t : State} (hengine : s.TakesEngine) (hbusy : s.busy = true)
    (htbusy : t.busy = false) (htdone : t.done = true) (hterrf : t.errf = true ↔ t.errCode ≠ 0)
    (hwerr : t.werr = s.werr)
    (hkey : t.keyValid = s.keyValid ∨ (s.cmd = 0x00000004 ∧ t.errCode = 0 ∧ t.keyValid = true)) :
    FlagsChangeAsListed s t := by
  refine ⟨by simp [hbusy], fun _ _ => .inl ⟨hengine, htdone⟩, fun _ _ => ⟨hbusy, htbusy, hengine⟩, by simp [htdone],
    fun _ h' => ⟨hbusy, htbusy, hterrf.1 h', hengine⟩,
    fun _ h' => .inl ⟨hbusy, htbusy, htdone, by simpa [h'] using hterrf, hengine⟩, fun h h' => ?_, fun h h' => ?_,
    flag_unchanged hwerr, flag_unchanged hwerr⟩
  · obtain hsame | ⟨hcmd, hcode, -⟩ := hkey
    · exact flag_unchanged hsame h h'
    · exact ⟨hbusy, hcmd, hcode, htbusy, hengine⟩
  · obtain hsame | ⟨-, -, hset⟩ := hkey
    · exact flag_unchanged hsame h h'
    · simp [hset] at h'

theorem flagsChangeAsListed_of_reset {s t : State} (hreset : s.TakesReset) (htbusy : t.busy = false)
    (htdone : t.done = false) (hterrf : t.errf = false) (htkey : t.keyValid = false) (htwerr : t.werr = false) :
    FlagsChangeAsListed s t := by
  simp [FlagsChangeAsListed, hreset, htbusy, htdone, hterrf, htkey, htwerr]

theorem EngineLeaves.flags {s t : State} (hengine : s.TakesEngine) (h : EngineLeaves s.takeTurn t) :
    FlagsChangeAsListed s t := by
  cases h with
  | idle => exact flagsChangeAsListed_of_same rfl rfl rfl rfl rfl
  | illegal hbusy => exact flagsChangeAsListed_of_completion hengine hbusy rfl rfl (by simp) rfl (.inl rfl)
  | command hbusy hcmd h =>
    obtain ⟨htbusy, htdone, hterrf, hwerr, hkey⟩ := h.flags
    refine flagsChangeAsListed_of_completion hengine hbusy htbusy htdone hterrf hwerr (hkey.imp id ?_)
    rintro ⟨rfl, hset⟩
    exact ⟨hcmd, hset⟩

theorem AccessLeaves.flags {s u : State} {a : BusAccess} {r : Response} (hturn : s.turns.head? = some (.host a))
    (h : AccessLeaves s.takeTurn a u) : FlagsChangeAsListed s { u with resp := r } := by
  cases h with
  | same | control | inLen | keyLen | buffer => exact flagsChangeAsListed_of_same rfl rfl rfl rfl rfl
  | operand q => cases q <;> exact flagsChangeAsListed_of_same rfl rfl rfl rfl rfl
  | softReset hreset => exact flagsChangeAsListed_of_reset (.inr ⟨a, hturn, hreset⟩) rfl rfl rfl rfl rfl
  | refused hbusy hwrite =>
    exact ⟨flag_unchanged rfl, flag_unchanged rfl, flag_unchanged rfl, flag_unchanged rfl, flag_unchanged rfl,
      flag_unchanged rfl, flag_unchanged rfl, flag_unchanged rfl,
      fun _ _ => ⟨hbusy, a, s.turns.tail, List.eq_cons_of_mem_head? hturn, hwrite⟩,
      fun _ h' => absurd h'.symm Bool.false_ne_true⟩
  | @status d hoff hop =>
    have hwrite : s.TakesWrite 0x00C d := ⟨a, hturn, hoff, hop⟩
    refine ⟨flag_unchanged rfl, flag_unchanged rfl, fun h h' => ?_, fun h h' => .inr (.inl ⟨d, hwrite, ?_⟩),
      flag_unchanged rfl, flag_unchanged rfl, flag_unchanged rfl, flag_unchanged rfl, fun h h' => ?_,
      fun h h' => .inl ⟨d, hwrite, ?_⟩⟩
    · simp [State.takeTurn, h] at h'
    · simpa [State.takeTurn, h] using h'
    · simp [State.takeTurn, h] at h'
    · simpa [State.takeTurn, h] using h'
  | @accept w hidle hoff hop =>
    have hwrite : s.TakesWrite 0x008 w := ⟨a, hturn, hoff, hop⟩
    refine ⟨fun _ _ => ⟨w, hwrite, rfl⟩, fun _ h' => absurd h'.symm Bool.false_ne_true,
      fun _ h' => absurd h' Bool.false_ne_true, fun _ _ => .inl ⟨hidle, rfl, w, hwrite⟩, flag_unchanged rfl,
      flag_unchanged rfl, fun h h' => ?_, fun h h' => .inl ⟨?_, hidle⟩, flag_unchanged rfl, flag_unchanged rfl⟩
    · simp [State.takeTurn, h] at h'
    · have hw : w = 0x00000004 := by simpa [State.takeTurn, h] using h'
      exact hw ▸ hwrite

/-- Settles O54: a completion, a host access or a reset, each with the flags it leaves. -/
theorem flagsChangeOnlyAsListed : Obligations.FlagsChangeOnlyAsListed := by
  intro s t h
  obtain ⟨hengine, hleaves⟩ | ⟨a, u, hturn, hleaves, r, rfl⟩ | ⟨hturn, rfl⟩ := step_leaves h
  · exact hleaves.flags hengine
  · exact hleaves.flags hturn
  · exact flagsChangeAsListed_of_reset (.inl hturn) rfl rfl rfl rfl rfl

end Sys2Proof.Machine
end

section
/-! PROOFS. The invariant of the block: it holds after a reset and every step keeps it (10_state.md R104, R105, R109,
R113, R116, R117; 60_exceptions.md R700). -/

namespace Sys2Proof.Machine

/-! ## The memory -/

/-- A run of writes inside one buffer keeps the memory canonical and inside the buffers. -/
theorem State.MemoryInv.writeRun {s : State} (h : s.MemoryInv) {b : Buf} {off : Nat} {bs : List Byte}
    (hlow : b.start ≤ off) (hhigh : off + bs.length ≤ b.start + b.size) :
    State.MemoryInv { s with mem := Memory.writeRun s.mem off bs } := by
  obtain ⟨hwf, hinside⟩ := h
  refine ⟨Memory.wf_writeRun off bs hwf, fun x hx => ?_⟩
  have hout : x < off ∨ off + bs.length ≤ x := by
    by_contra hin
    have hbuf := inBuffer_start_add b (k := x - b.start) (by omega)
    rw [show b.start + (x - b.start) = x by omega, hx] at hbuf
    cases hbuf
  exact (Memory.read_writeRun_outside s.mem off bs hout).trans (hinside x hx)

theorem State.MemoryInv.putBytes {s : State} (h : s.MemoryInv) {b : Buf} {bs : List Byte} (hbs : bs.length ≤ b.size) :
    (s.putBytes b bs).MemoryInv := h.writeRun le_rfl (by omega)

theorem Buf.ranges_disjoint {b b' : Buf} (h : b ≠ b') : b.start + b.size ≤ b'.start ∨ b'.start + b'.size ≤ b.start := by
  revert h
  cases b <;> cases b' <;> decide

/-- A run of writes inside one buffer keeps every byte of the others. -/
theorem byte_writeRun_other (s : State) {b b' : Buf} {off i : Nat} {bs : List Byte} (hb : b ≠ b') (hlow : b.start ≤ off)
    (hhigh : off + bs.length ≤ b.start + b.size) (hi : i < b'.size) :
    State.byte { s with mem := Memory.writeRun s.mem off bs } b' i = s.byte b' i := by
  have := Buf.ranges_disjoint hb
  exact Memory.read_writeRun_outside s.mem off bs (by omega)

theorem byte_putBytes_other (s : State) {b b' : Buf} {i : Nat} {bs : List Byte} (hb : b ≠ b') (hbs : bs.length ≤ b.size)
    (hi : i < b'.size) : (s.putBytes b bs).byte b' i = s.byte b' i :=
  byte_writeRun_other s hb le_rfl (by omega) hi

theorem byte_putBytes_self (s : State) (b : Buf) {i : Nat} {bs : List Byte} (hi : i < bs.length) :
    (s.putBytes b bs).byte b i = some bs[i] :=
  Memory.read_writeRun_inside s.mem b.start bs hi

/-! ## The flags -/

theorem outcomeCode_toNat_le (o : Option CmdError) : (outcomeCode o).toNat ≤ 6 := by
  cases o with
  | none => decide
  | some e => cases e <;> decide

/-- A completion sets BUSY, DONE, ERRF and ERR.CODE together, so whatever they were it leaves them in order. -/
theorem State.statusInv_complete (s : State) (o : Option CmdError) : (s.complete o).StatusInv := by
  refine ⟨outcomeCode_toNat_le o, ?_, by simp, by simp⟩
  cases o <;> simp

/-- So a completion meets the invariant once the memory, the key and the output buffers do. -/
theorem State.inv_complete {s : State} (o : Option CmdError) (hmem : s.MemoryInv) (hkey : s.KeyInv)
    (htext : s.TextInv) : (s.complete o).Inv := ⟨hmem, s.statusInv_complete o, hkey, htext⟩

theorem State.StatusInv.accept {s : State} (h : s.StatusInv) (w : Word32) : (s.accept w).StatusInv := by
  obtain ⟨hcode, herrf, -, -⟩ := h
  exact ⟨hcode, herrf, fun _ => rfl, fun _ hw => by simp_all⟩

theorem State.StatusInv.writeStatus {s : State} (h : s.StatusInv) (d : Word32) : (s.writeStatus d).StatusInv := by
  obtain ⟨hcode, herrf, hdone, hkey⟩ := h
  exact ⟨hcode, herrf, fun hbusy => by simp [hdone hbusy], hkey⟩

/-! ## The key -/

/-- A good key below 2^64 stands in the KEY registers as it is. -/
theorem State.keyInv_putKey (s : State) {n phi e d : Nat} (hn : n < 2 ^ 64) (hkey : GoodKey n phi e d) :
    (s.putKey n phi e d).KeyInv := by
  obtain ⟨hphi, he, hd⟩ := hkey.le_modulus
  intro _
  have hword {v : Nat} (hv : v ≤ n) : (BitVec.ofNat 64 v).toNat = v := by
    rw [BitVec.toNat_ofNat, Nat.mod_eq_of_lt (by omega)]
  simpa [hword hphi, hword he, hword hd, hword le_rfl] using hkey

/-! ## The output buffers -/

/-- The claim on the output buffers rests on OUT_LEN, GRID and the bytes of OUT_BUF and RANK_BUF. -/
theorem State.TextInv.of_agree {s t : State} (h : s.TextInv) (hlen : t.outLen = s.outLen) (hrows : t.nrows = s.nrows)
    (hcols : t.ncols = s.ncols) (hout : ∀ i, i < Buf.outBuf.size → t.byte .outBuf i = s.byte .outBuf i)
    (hrank : ∀ c, c < Buf.rankBuf.size → t.byte .rankBuf c = s.byte .rankBuf c) : t.TextInv := by
  obtain ⟨hlenMax, hletters, hrowsMax, hcolsMax, hranks⟩ := h
  simp only [Buf.size, Config.outMax, Config.keyMax] at hout hrank
  rw [State.TextInv, hlen, hrows, hcols]
  refine ⟨hlenMax, fun i hi => ?_, hrowsMax, hcolsMax, fun c hc => ?_⟩
  · rw [hout i (by omega)]
    exact hletters i hi
  · rw [hrank c (by omega)]
    exact hranks c hc

/-- The byte of a Letter is an upper-case letter (40_codec_and_command.md R411). -/
theorem letterByte_upper (l : Letter) : 0x41 ≤ (letterByte l).toNat ∧ (letterByte l).toNat ≤ 0x5A := by
  have hlt := normMod_lt (l.val : Int) (show 0 < 26 by decide)
  rw [letterByte, letter2Byte, BitVec.toNat_ofNat, Nat.mod_eq_of_lt (by omega)]
  omega

theorem letters_fit_outBuf {T : List Letter} (hT : T.length ≤ 1087) : (T.map letterByte).length ≤ Buf.outBuf.size := by
  simp only [List.length_map, Buf.size, Config.outMax]
  omega

/-- After `WriteOut` the bytes below OUT_LEN are upper-case letters. -/
theorem byte_writeOut_outBuf (s : State) {T : List Letter} (hT : T.length ≤ 1087) {i : Nat}
    (hi : i < (s.writeOut T).outLen.toNat) :
    ∃ b, (s.writeOut T).byte .outBuf i = some b ∧ 0x41 ≤ b.toNat ∧ b.toNat ≤ 0x5A := by
  rw [State.writeOut_outLen_toNat s hT] at hi
  have hbyte := byte_putBytes_self s .outBuf (bs := T.map letterByte) (by simpa using hi)
  rw [List.getElem_map] at hbyte
  exact ⟨_, hbyte, letterByte_upper _⟩

theorem State.TextInv.writeOut {s : State} (h : s.TextInv) {T : List Letter} (hT : T.length ≤ 1087) :
    (s.writeOut T).TextInv := by
  obtain ⟨-, -, hrowsMax, hcolsMax, hranks⟩ := h
  refine ⟨(State.writeOut_outLen_toNat s hT).trans_le hT, fun i hi => byte_writeOut_outBuf s hT hi, hrowsMax, hcolsMax,
    fun c hc => ?_⟩
  obtain ⟨b, hb, hlt⟩ := hranks c hc
  have hsame := byte_putBytes_other s (show Buf.outBuf ≠ .rankBuf by decide) (letters_fit_outBuf hT) (i := c)
    (lt_of_lt_of_le hc hcolsMax)
  exact ⟨b, hsame.trans hb, hlt⟩

/-- The ranks in RANK_BUF are below the number of columns (43_transposition.md R550). -/
theorem byte_putBytes_rankBytes (s : State) {K : List Letter} (hK : K.length ≤ 64) {c : Nat} (hc : c < K.length) :
    ∃ b, (s.putBytes .rankBuf (rankBytes K)).byte .rankBuf c = some b ∧ b.toNat < K.length := by
  have hrank := columnRank_lt hc
  refine ⟨_, byte_putBytes_self s .rankBuf (by rwa [rankBytes_length]), ?_⟩
  simp only [rankBytes, List.getElem_map, List.getElem_range, BitVec.toNat_ofNat]
  rwa [Nat.mod_eq_of_lt (by omega)]

theorem rankBytes_fit_rankBuf {K : List Letter} (hK : K.length ≤ 64) : (rankBytes K).length ≤ Buf.rankBuf.size := by
  rw [rankBytes_length]
  exact hK

theorem State.textInv_grid (s : State) {T K : List Letter} {rows : Nat} (hT : T.length ≤ 1087) (hK : K.length ≤ 64)
    (hrows : rows ≤ 1024) :
    (((s.writeOut T).putGrid rows K.length).putBytes .rankBuf (rankBytes K)).TextInv := by
  have hcols := State.putGrid_ncols_toNat (s.writeOut T) rows hK
  refine ⟨?_, fun i hi => ?_, ?_, ?_, fun c hc => ?_⟩
  · exact (State.writeOut_outLen_toNat s hT).trans_le hT
  · obtain ⟨b, hb, hupper⟩ := byte_writeOut_outBuf s hT hi
    have hsame := byte_putBytes_other ((s.writeOut T).putGrid rows K.length) (show Buf.rankBuf ≠ .outBuf by decide)
      (rankBytes_fit_rankBuf hK) (i := i) ?_
    · exact ⟨b, hsame.trans hb, hupper⟩
    · rw [State.putBytes_outLen, State.putGrid_outLen, State.writeOut_outLen_toNat s hT] at hi
      simp only [Buf.size, Config.outMax]
      omega
  · simp only [State.putBytes_nrows, State.putGrid_nrows, BitVec.toNat_ofNat]
    omega
  · exact hcols.trans_le hK
  · rw [State.putBytes_ncols, hcols] at hc ⊢
    exact byte_putBytes_rankBytes _ hK hc

/-! ## The invariant -/

/-- A soft reset leaves the registers in order, whatever they held, and keeps the memory. -/
theorem State.MemoryInv.softReset {s : State} (h : s.MemoryInv) : s.softReset.Inv :=
  ⟨h, ⟨by simp, by simp, by simp, by simp⟩, fun hkey => by simp at hkey,
    by simp, fun _ hi => by simp at hi, by simp, by simp, fun _ hc => by simp at hc⟩

/-- Settles O56: no byte is listed, and the registers are those of a soft reset. -/
theorem resetMeetsTheInvariant : Obligations.ResetMeetsTheInvariant :=
  State.MemoryInv.softReset (s := State.reset) ⟨Memory.wf_reset, fun _ _ => rfl⟩

theorem AccessLeaves.inv {s t : State} {a : BusAccess} (h : AccessLeaves s a t) (hs : s.Inv) : t.Inv := by
  obtain ⟨hmem, hstatus, hkey, htext⟩ := hs
  cases h with
  | same | refused | control | inLen | keyLen => exact ⟨hmem, hstatus, hkey, htext⟩
  | operand r => cases r <;> exact ⟨hmem, hstatus, hkey, htext⟩
  | softReset => exact hmem.softReset
  | status => exact ⟨hmem, hstatus.writeStatus _, hkey, htext⟩
  | accept => exact ⟨hmem, hstatus.accept _, fun h => hkey (Bool.and_eq_true_iff.1 h).1, htext⟩
  | @buffer b off bs hb hlow hhigh =>
    have hout : b ≠ .outBuf := by rcases hb with rfl | rfl <;> decide
    have hrank : b ≠ .rankBuf := by rcases hb with rfl | rfl <;> decide
    exact ⟨hmem.writeRun hlow hhigh, hstatus, hkey, htext.of_agree rfl rfl rfl
      (fun _ => byte_writeRun_other s hout hlow hhigh) (fun _ => byte_writeRun_other s hrank hlow hhigh)⟩

/-- A command keeps the invariant; RSAKEYGEN may zero the key because its acceptance cleared KEY_VALID. -/
theorem CommandAnswers.inv {i : Instr} {s t : State} (h : CommandAnswers s i t) (hbusy : s.busy = true)
    (hcmd : s.cmd = encode i) (hs : s.Inv) : t.Inv := by
  obtain ⟨hmem, hstatus, hkey, htext⟩ := hs
  cases h with
  | error | result => exact State.inv_complete _ hmem hkey htext
  | keyError =>
    obtain ⟨-, -, -, hpending⟩ := hstatus
    have hinvalid := hpending hbusy hcmd
    exact State.inv_complete _ hmem (fun h => by simp [hinvalid] at h) htext
  | key hn hgood =>
    exact State.inv_complete _ hmem (fun _ => State.keyInv_putKey { s with keyValid := true } hn hgood rfl) htext
  | text _ hT =>
    have hT' := hT.trans (show 1024 ≤ 1087 by decide)
    exact State.inv_complete _ (hmem.putBytes (letters_fit_outBuf hT')) hkey (htext.writeOut hT')
  | grid _ _ hK hT hrows =>
    have hletters : State.MemoryInv (s.writeOut _) := hmem.putBytes (letters_fit_outBuf hT)
    refine State.inv_complete _ (State.MemoryInv.putBytes hletters (rankBytes_fit_rankBuf hK)) ?_
      (State.textInv_grid s hT hK hrows)
    simpa [State.KeyInv] using hkey

theorem EngineLeaves.inv {s t : State} (h : EngineLeaves s t) (hs : s.Inv) : t.Inv := by
  cases h with
  | idle => exact hs
  | command hbusy hcmd h => exact h.inv hbusy hcmd hs
  | illegal =>
    obtain ⟨hmem, -, hkey, htext⟩ := hs
    exact State.inv_complete _ hmem hkey htext

/-- Settles O57: the engine's turn, a host access and a power-on each keep the invariant. -/
theorem stepKeepsTheInvariant : Obligations.StepKeepsTheInvariant := by
  intro s t hs h
  have htaken : s.takeTurn.Inv := hs
  obtain ⟨-, hleaves⟩ | ⟨a, u, -, hleaves, r, rfl⟩ | ⟨-, rfl⟩ := step_leaves h
  · exact hleaves.inv htaken
  · exact hleaves.inv htaken
  · exact resetMeetsTheInvariant

end Sys2Proof.Machine
end

section
/-! PROOFS. The host's turn: where the window lies, which accesses are bus errors, and what a turn leaves
(20_memory.md R200 to R203, R205, R208, R209, R212). -/

namespace Sys2Proof.Machine

/-! ## The window (20_memory.md R200, R201) -/

theorem offsetOf_outside {addr : Nat} (h : addr < Config.base ∨ Config.base + 0x2000 ≤ addr) : offsetOf addr = none := by
  have hw : Config.windowSize = 0x2000 := rfl
  exact if_neg (by omega)

theorem busAccess_outside (s : State) {a : BusAccess} (h : offsetOf a.addr = none) : busAccess s a = (s, .none) := by
  rw [busAccess, h]

theorem busAccess_inside (s : State) {a : BusAccess} {off : Nat} (h : offsetOf a.addr = some off) :
    busAccess s a = windowAccess s off a.op := by
  rw [busAccess, h]

/-- Settles O41: BASE is the index of the window times its size. -/
theorem windowIsEightKibAtBase : Obligations.WindowIsEightKibAtBase :=
  ⟨Nat.mul_mod_right _ _, fun _ => offsetOf_base_add,
    fun s _ h => ⟨offsetOf_outside h, busAccess_outside s (offsetOf_outside h)⟩⟩

/-! ## Bus errors (20_memory.md R202, R203, R205) -/

/-- The offsets of the four buffers (20_memory.md R201). -/
theorem inBuffer_iff_range {off : Nat} :
    inBuffer off = true ↔ (0x400 ≤ off ∧ off < 0x480) ∨ (0x800 ≤ off ∧ off < 0xC00) ∨ (0x1000 ≤ off ∧ off < 0x1800) := by
  rw [inBuffer_eq_true]
  constructor
  · rintro ⟨b, h⟩
    have hrange := targetOf_buffer_range h
    cases b <;> simp only [Buf.start, Buf.size, Config.keyMax, Config.inMax, Config.outMax] at hrange <;> omega
  · intro h
    rcases (by omega : (0x400 ≤ off ∧ off < 0x440) ∨ (0x440 ≤ off ∧ off < 0x480) ∨ (0x800 ≤ off ∧ off < 0xC00) ∨
      (0x1000 ≤ off ∧ off < 0x1800)) with h | h | h | h
    · exact ⟨_, targetOf_keyBuf h.1 h.2⟩
    · exact ⟨_, targetOf_rankBuf h.1 h.2⟩
    · exact ⟨_, targetOf_inBuf h.1 h.2⟩
    · exact ⟨_, targetOf_outBuf h.1 h.2⟩

/-- A response is an error exactly where the access is not permitted. -/
theorem windowAccess_isError (s : State) (off : Nat) (op : BusOp) :
    (windowAccess s off op).2.isError = !permitted op off := by
  cases h : permitted op off with
  | false =>
    rw [windowAccess_forbidden s h, errorResponse]
    split <;> rfl
  | true =>
    unfold windowAccess
    rw [if_pos h]
    cases op with
    | otherSize => cases h
    | rd8 | rd32 | wr8 | wr32 => rfl

theorem isPermitted_inside {a : BusAccess} {off : Nat} (h : offsetOf a.addr = some off) :
    isPermitted a = permitted a.op off := by
  rw [isPermitted, h]

theorem busAccess_isError (s : State) (a : BusAccess) : (busAccess s a).2.isError = !isPermitted a := by
  cases h : offsetOf a.addr with
  | none => rw [busAccess_outside s h, isPermitted, h]; rfl
  | some off => rw [busAccess_inside s h, windowAccess_isError, isPermitted_inside h]

/-- The host's turn, by permission. -/
theorem hostTurn_eq (s : State) (a : BusAccess) :
    hostTurn s a =
      if isPermitted a then .next { (busAccess s a).1 with resp := (busAccess s a).2 } else .fault .hostBusError := by
  change (if (busAccess s a).2.isError then _ else _) = _
  rw [busAccess_isError]
  cases isPermitted a <;> rfl

theorem step_host {s : State} {a : BusAccess} {ts : List Turn} (h : s.turns = .host a :: ts) :
    step s = hostTurn { s with turns := ts } a := by
  rw [step, h]

theorem step_powerOn {s : State} {ts : List Turn} (h : s.turns = .powerOn :: ts) :
    step s = .next (State.powerOnReset { s with turns := ts }) := by
  rw [step, h]

/-- Settles O8: the step is the turn's. -/
theorem hostTurnIsOneAccess : Obligations.HostTurnIsOneAccess := by
  intro s ts a
  refine ⟨fun hts hp => ?_, fun hts hp => ?_, fun hts => step_powerOn hts⟩
  · rw [step_host hts, hostTurn_eq, if_pos hp]
  · rw [step_host hts, hostTurn_eq, if_neg (Bool.eq_false_iff.1 hp)]

/-- Settles O42: an access that is not permitted answers the error response, and its host turn faults. -/
theorem forbiddenAccessIsABusError : Obligations.ForbiddenAccessIsABusError := by
  intro s off op ts hoff inBuffers forbidden
  have hforbidden : forbidden ↔ permitted op off = false := by
    cases op with
    | rd32 | wr32 => simp [forbidden, permitted]
    | rd8 | wr8 => rw [permitted, ← Bool.not_eq_true, inBuffer_iff_range]
    | otherSize => simp [forbidden, permitted]
  rw [hforbidden, Bool.not_eq_false]
  refine ⟨fun h => ⟨?_, fun hread => ?_, fun hwrite => ?_, fun hts => ?_⟩, fun h => ?_⟩
  · rw [windowAccess_forbidden s h]
  · rw [windowAccess_forbidden s h, errorResponse, if_pos hread]
  · rw [windowAccess_forbidden s h, errorResponse, if_neg (Bool.eq_false_iff.1 hwrite)]
  · rw [step_host hts, hostTurn_eq, isPermitted_inside (offsetOf_base_add hoff), h]
    rfl
  · rw [windowAccess_isError, h]
    rfl

/-! ## Reads (20_memory.md R208) -/

theorem busAccess_read (s : State) {a : BusAccess} (h : a.op.isRead = true) : (busAccess s a).1 = s := by
  cases hoff : offsetOf a.addr with
  | none => rw [busAccess_outside s hoff]
  | some off =>
    rw [busAccess_inside s hoff]
    obtain hsame | ⟨_, d, hop, -⟩ | ⟨_, _, d, hop, -⟩ | ⟨_, d, hop, -⟩ | ⟨_, d, hop, -⟩ := windowAccess_cases s off a.op
    · exact hsame
    all_goals rw [hop] at h; cases h

/-- No response depends on the response before it. -/
theorem busAccess_resp_irrelevant (s : State) (a : BusAccess) (r : Response) :
    (busAccess { s with resp := r } a).2 = (busAccess s a).2 := by
  cases hoff : offsetOf a.addr with
  | none => rw [busAccess_outside _ hoff, busAccess_outside s hoff]
  | some off =>
    rw [busAccess_inside _ hoff, busAccess_inside s hoff]
    unfold windowAccess
    split
    · cases a.op <;> rfl
    · rfl

/-- Settles O45: a read leaves the state, and its response is no input of the next read. -/
theorem readsHaveNoSideEffects : Obligations.ReadsHaveNoSideEffects := by
  refine ⟨fun s a h => busAccess_read s h, fun s t a ts hts hread hstep => ?_⟩
  obtain ⟨-, ht⟩ := hostTurn_next ((step_host hts).symm.trans hstep)
  rw [busAccess_read _ hread] at ht
  subst ht
  exact ⟨rfl, busAccess_resp_irrelevant _ a _⟩

/-! ## The outputs (20_memory.md R209) -/

/-- Settles O53: of what an access can leave, only a soft reset writes a register that is an output, and the buffers
that store a write are not the output buffers. -/
theorem outputsChangeOnlyAtCompletion : Obligations.OutputsChangeOnlyAtCompletion := by
  intro s t a ts hts hquiet hstep
  obtain ⟨-, rfl⟩ := hostTurn_next ((step_host hts).symm.trans hstep)
  have hleaves := busAccess_leaves { s with turns := ts } a
  generalize (busAccess { s with turns := ts } a).1 = u at hleaves ⊢
  cases hleaves with
  | same | refused | control | status | accept | inLen | keyLen => simp [State.byte]
  | operand r => cases r <;> simp [State.byte, State.setHalf64]
  | softReset hreset => cases hquiet.symm.trans hreset
  | @buffer b _ _ hb hlow hhigh =>
    have hout : b ≠ .outBuf := by rcases hb with rfl | rfl <;> decide
    have hrank : b ≠ .rankBuf := by rcases hb with rfl | rfl <;> decide
    exact ⟨rfl, rfl, rfl, rfl, rfl, rfl, rfl, rfl, rfl, rfl, fun _ => byte_writeRun_other s hout hlow hhigh,
      fun _ => byte_writeRun_other s hrank hlow hhigh⟩

end Sys2Proof.Machine
end

section
/-! PROOFS. Which writes are refused while the block is busy, and which are always ignored (20_memory.md R206, R207). -/

namespace Sys2Proof.Machine

/-- The targets that ignore a write, idle or busy: read-only or reserved (20_memory.md R207). -/
def Target.ignoresWrites : Target → Bool
  | .reg32 r => decide (r ∈ [Reg32.id, .err, .outLen, .grid])
  | .half r _ => decide (r ∉ operandRegisters)
  | .buffer b => decide (b = .rankBuf ∨ b = .outBuf)
  | .reserved => true

/-- The targets that a busy block protects (20_memory.md R206). -/
def Target.busyProtected : Target → Bool
  | .reg32 r => decide (r ∈ [Reg32.cmd, .inLen, .keyLen])
  | .half r _ => decide (r ∈ operandRegisters)
  | .buffer b => decide (b = .keyBuf ∨ b = .inBuf)
  | .reserved => false

/-! ## What such a write leaves -/

theorem State.guarded_busy {s : State} (stored : State) (h : s.busy = true) : s.guarded stored = s.refuseWrite := if_pos h

theorem State.writeBuffer_ignored (s : State) {b : Buf} (off : Nat) (bs : List Byte)
    (h : (Target.buffer b).ignoresWrites = true) : s.writeBuffer b off bs = s := by
  cases b with
  | rankBuf | outBuf => rfl
  | keyBuf | inBuf => cases h

theorem State.writeBuffer_busy {s : State} {b : Buf} (off : Nat) (bs : List Byte) (hbusy : s.busy = true)
    (h : (Target.buffer b).busyProtected = true) : s.writeBuffer b off bs = s.refuseWrite := by
  cases b with
  | keyBuf | inBuf => exact State.guarded_busy _ hbusy
  | rankBuf | outBuf => cases h

theorem State.writeWord_ignored (s : State) {off : Nat} (d : Word32) (h : (targetOf off).ignoresWrites = true) :
    s.writeWord off d = s := by
  cases ht : targetOf off with
  | reserved => exact s.writeWord_reserved d ht
  | reg32 r =>
    rw [s.writeWord_reg32 d ht]
    rw [ht] at h
    cases r with
    | id | err | outLen | grid => rfl
    | ctrl | cmd | status | inLen | keyLen => cases h
  | half r high =>
    rw [s.writeWord_half d ht]
    rw [ht] at h
    cases r with
    | result | keyN | keyPhi | keyE | keyD => rfl
    | op0 | op1 | op2 => cases h
  | buffer b => rw [s.writeWord_buffer d ht, s.writeBuffer_ignored off _ (ht ▸ h)]

theorem State.writeWord_busy {s : State} {off : Nat} (d : Word32) (hbusy : s.busy = true)
    (h : (targetOf off).busyProtected = true) : s.writeWord off d = s.refuseWrite := by
  cases ht : targetOf off with
  | reserved => rw [ht] at h; cases h
  | reg32 r =>
    rw [s.writeWord_reg32 d ht]
    rw [ht] at h
    cases r with
    | cmd | inLen | keyLen => exact State.guarded_busy _ hbusy
    | id | ctrl | status | err | outLen | grid => cases h
  | half r high =>
    rw [s.writeWord_half d ht]
    rw [ht] at h
    cases r with
    | op0 | op1 | op2 => exact State.guarded_busy _ hbusy
    | result | keyN | keyPhi | keyE | keyD => cases h
  | buffer b => rw [s.writeWord_buffer d ht, State.writeBuffer_busy off _ hbusy (ht ▸ h)]

/-! ## Where such a target lies (20_memory.md R201) -/

theorem reg64At_mem_operandRegisters : ∀ k < 8, (reg64At k ∈ operandRegisters ↔ k < 3) := by decide

theorem targetOf_ignoresWrites {off : Nat} (h4 : off % 4 = 0)
    (h : off = 0x000 ∨ off = 0x010 ∨ off = 0x01C ∨ (0x020 ≤ off ∧ off < 0x040) ∨ (0x058 ≤ off ∧ off < 0x400) ∨
      (0x440 ≤ off ∧ off < 0x800) ∨ 0xC00 ≤ off) : (targetOf off).ignoresWrites = true := by
  rcases (by omega : (off = 0x000 ∨ off = 0x010 ∨ off = 0x01C ∨ off = 0x020) ∨ (0x058 ≤ off ∧ off < 0x080) ∨
    (0x440 ≤ off ∧ off < 0x480) ∨ (0x1000 ≤ off ∧ off < 0x1800) ∨
    ((0x024 ≤ off ∧ off < 0x040) ∨ (0x080 ≤ off ∧ off < 0x400) ∨ (0x480 ≤ off ∧ off < 0x800) ∨
      (0xC00 ≤ off ∧ off < 0x1000) ∨ 0x1800 ≤ off)) with hreg | hhalf | hrank | hout | hres
  · rcases hreg with rfl | rfl | rfl | rfl <;> rfl
  · rw [targetOf_half (by omega) hhalf.2, Target.ignoresWrites, decide_eq_true_iff, reg64At_mem_operandRegisters _ (by omega)]
    omega
  · rw [targetOf_rankBuf hrank.1 hrank.2]
    rfl
  · rw [targetOf_outBuf hout.1 hout.2]
    rfl
  · rw [targetOf_reserved hres]
    rfl

theorem targetOf_busyProtected {off : Nat}
    (h : off = 0x008 ∨ off = 0x014 ∨ off = 0x018 ∨ (0x040 ≤ off ∧ off < 0x058) ∨ (0x400 ≤ off ∧ off < 0x440) ∨
      (0x800 ≤ off ∧ off < 0xC00)) : (targetOf off).busyProtected = true := by
  rcases h with rfl | rfl | rfl | ⟨hlow, hhigh⟩ | ⟨hlow, hhigh⟩ | ⟨hlow, hhigh⟩
  · rfl
  · rfl
  · rfl
  · rw [targetOf_half hlow (by omega), Target.busyProtected, decide_eq_true_iff, reg64At_mem_operandRegisters _ (by omega)]
    omega
  · rw [targetOf_keyBuf hlow hhigh]
    rfl
  · rw [targetOf_inBuf hlow hhigh]
    rfl

/-- The buffers that store host writes. -/
theorem targetOf_writable {off : Nat} (h : (0x400 ≤ off ∧ off < 0x440) ∨ (0x800 ≤ off ∧ off < 0xC00)) :
    ∃ b, targetOf off = .buffer b ∧ (b = .keyBuf ∨ b = .inBuf) := by
  rcases h with ⟨hlow, hhigh⟩ | ⟨hlow, hhigh⟩
  · exact ⟨_, targetOf_keyBuf hlow hhigh, .inl rfl⟩
  · exact ⟨_, targetOf_inBuf hlow hhigh, .inr rfl⟩

/-! ## The accesses -/

theorem windowAccess_wr32_ignored (s : State) {off : Nat} (d : Word32) (h4 : off % 4 = 0)
    (h : (targetOf off).ignoresWrites = true) : windowAccess s off (.wr32 d) = (s, .written) := by
  rw [windowAccess_wr32 s d h4, s.writeWord_ignored d h]

/-- A byte write of a read-only buffer. -/
theorem windowAccess_wr8_ignored (s : State) {off : Nat} (d : Byte)
    (h : (0x440 ≤ off ∧ off < 0x480) ∨ (0x1000 ≤ off ∧ off < 0x1800)) :
    windowAccess s off (.wr8 d) = (s, .written) := by
  rw [windowAccess_wr8 s d (inBuffer_iff_range.2 (by omega))]
  rcases h with h | h
  · rw [s.writeByte_buffer d (targetOf_rankBuf h.1 h.2), s.writeBuffer_ignored _ _ rfl]
  · rw [s.writeByte_buffer d (targetOf_outBuf h.1 h.2), s.writeBuffer_ignored _ _ rfl]

/-- A byte write of a buffer that stores host writes. -/
theorem windowAccess_wr8_busy {s : State} {off : Nat} (d : Byte) (hbusy : s.busy = true)
    (h : (0x400 ≤ off ∧ off < 0x440) ∨ (0x800 ≤ off ∧ off < 0xC00)) :
    windowAccess s off (.wr8 d) = (s.refuseWrite, .written) := by
  obtain ⟨b, ht, hb⟩ := targetOf_writable h
  rw [windowAccess_wr8 s d (inBuffer_eq_true.2 ⟨b, ht⟩), s.writeByte_buffer d ht,
    State.writeBuffer_busy off _ hbusy (decide_eq_true hb)]

/-- Settles O43: a protected target sets WERR, CTRL and STATUS act as ever, the other targets ignore the write. -/
theorem busyWritesAreRefused : Obligations.BusyWritesAreRefused := by
  intro s hbusy
  refine ⟨fun off d h4 h => ?_, fun off d h => windowAccess_wr8_busy d hbusy h, fun d hd => ?_, fun d hd => ?_,
    fun d => windowAccess_wr32_reg32 s .status d, fun off d _ h4 h => ?_, fun off d h => windowAccess_wr8_ignored s d h⟩
  · rw [windowAccess_wr32 s d h4, State.writeWord_busy d hbusy (targetOf_busyProtected h), State.refuseWrite]
  · exact (controlWriteStoresOrResets s d).1 hd
  · exact (windowAccess_wr32_reg32 s .ctrl d).trans (congrArg (·, _) (s.writeCtrl_reset hd))
  · exact windowAccess_wr32_ignored s d h4 (targetOf_ignoresWrites h4 h)

theorem State.ctrlWord_toNat_lt (s : State) : s.ctrlWord.toNat < 2 := by
  rw [State.ctrlWord_eq]
  cases s.ie <;> decide

/-- The word a read of a 32-bit register gives. -/
theorem eq_read32_of_windowAccess {s : State} {r : Reg32} {w : Word32}
    (h : windowAccess s r.offset .rd32 = (s, .data32 w)) : w = s.read32 r := by
  rw [windowAccess_rd32_reg32] at h
  cases h
  rfl

theorem State.writeStatus_zeros (s : State) {d : Word32} (h1 : d.getLsbD 1 = false) (h4 : d.getLsbD 4 = false) :
    s.writeStatus d = s := by
  simp only [State.writeStatus, h1, h4, Bool.not_false, Bool.and_true]

/-- Settles O44: the targets that ignore writes, and the words of CTRL, STATUS and ERR. -/
theorem reservedAndReadOnlyTargets : Obligations.ReservedAndReadOnlyTargets := by
  intro s
  refine ⟨fun off _ h4 h => ⟨?_, fun d => ?_⟩, fun off d h4 h => ?_, fun off d h => windowAccess_wr8_ignored s d h,
    fun w h => ?_, fun w h => ?_, fun w h => ?_, fun d h1 hw => ?_, fun d h1 hie => ?_⟩
  · rw [windowAccess_rd32 s h4, s.readWord_reserved (targetOf_reserved h)]
  · exact windowAccess_wr32_ignored s d h4 (targetOf_ignoresWrites h4 (by omega))
  · exact windowAccess_wr32_ignored s d h4 (targetOf_ignoresWrites h4 (by omega))
  · exact eq_read32_of_windowAccess (r := .ctrl) h ▸ s.ctrlWord_toNat_lt
  · obtain ⟨-, -, -, -, -, hlt⟩ := s.statusWord_bits
    exact eq_read32_of_windowAccess (r := .status) h ▸ hlt
  · exact eq_read32_of_windowAccess (r := .err) h ▸ s.errWord_toNat.trans_lt s.errCode.isLt
  · exact (windowAccess_wr32_reg32 s .status d).trans (congrArg (·, _) (s.writeStatus_zeros h1 hw))
  · exact (windowAccess_wr32_reg32 s .ctrl d).trans (congrArg (·, _) ((s.writeCtrl_store h1).trans (by rw [hie])))

end Sys2Proof.Machine
end

section
/-! PROOFS. The order of bytes and halves in a word (20_memory.md R204). -/

namespace Sys2Proof.Machine

/-! ## The bytes of a word -/

/-- Joined bytes, taken apart again. -/
theorem extract_joined_bytes (b3 b2 b1 b0 : Byte) :
    (b3 ++ b2 ++ b1 ++ b0).extractLsb' 0 8 = b0 ∧ (b3 ++ b2 ++ b1 ++ b0).extractLsb' 8 8 = b1 ∧
    (b3 ++ b2 ++ b1 ++ b0).extractLsb' 16 8 = b2 ∧ (b3 ++ b2 ++ b1 ++ b0).extractLsb' 24 8 = b3 := by
  refine ⟨BitVec.extractLsb'_append_eq_right, ?_, ?_, ?_⟩
  · rw [BitVec.extractLsb'_append_eq_of_le (by decide), BitVec.extractLsb'_append_eq_right]
  · rw [BitVec.extractLsb'_append_eq_of_le (by decide), BitVec.extractLsb'_append_eq_of_le (by decide),
      BitVec.extractLsb'_append_eq_right]
  · rw [BitVec.extractLsb'_append_eq_of_le (by decide), BitVec.extractLsb'_append_eq_of_le (by decide),
      BitVec.extractLsb'_append_eq_left]

/-- Byte `j` of four buffer bytes read as a word is the byte at the offset plus `j`. -/
theorem State.bufferWord_extract (s : State) (off : Nat) {j : Nat} (hj : j < 4) :
    (s.bufferWord off).extractLsb' (8 * j) 8 = s.hostByte (off + j) := by
  obtain ⟨h0, h1, h2, h3⟩ :=
    extract_joined_bytes (s.hostByte (off + 3)) (s.hostByte (off + 2)) (s.hostByte (off + 1)) (s.hostByte off)
  interval_cases j
  · exact h0
  · exact h1
  · exact h2
  · exact h3

theorem wordBytes_length (d : Word32) : (wordBytes d).length = 4 := rfl

theorem wordBytes_getElem (d : Word32) {j : Nat} (hj : j < (wordBytes d).length) :
    (wordBytes d)[j] = d.extractLsb' (8 * j) 8 := by
  have hj4 : j < 4 := hj
  interval_cases j <;> rfl

/-! ## Reads of the buffers -/

/-- The four bytes of a buffer's word lie in the buffer. -/
theorem inBuffer_word {off j : Nat} (h4 : off % 4 = 0) (h : inBuffer off = true) (hj : j < 4) :
    inBuffer (off + j) = true := by
  rw [inBuffer_iff_range] at h ⊢
  omega

theorem windowAccess_rd32_buffer (s : State) {off : Nat} (h4 : off % 4 = 0) (h : inBuffer off = true) :
    windowAccess s off .rd32 = (s, .data32 (s.bufferWord off)) := by
  obtain ⟨b, hb⟩ := inBuffer_eq_true.1 h
  rw [windowAccess_rd32 s h4, s.readWord_buffer hb]

/-- A byte read is the matching byte of the read of its word. -/
theorem rd8_of_rd32 {s : State} {off j : Nat} {w : Word32} (h4 : off % 4 = 0) (h : inBuffer off = true) (hj : j < 4)
    (hw : windowAccess s off .rd32 = (s, .data32 w)) :
    windowAccess s (off + j) .rd8 = (s, .data8 (w.extractLsb' (8 * j) 8)) := by
  rw [windowAccess_rd32_buffer s h4 h] at hw
  cases hw
  rw [windowAccess_rd8 s (inBuffer_word h4 h hj), s.bufferWord_extract off hj]

theorem Buf.start_mod_four (b : Buf) : b.start % 4 = 0 := by cases b <;> rfl

/-! ## Writes of the buffers on an idle block -/

theorem State.writeBuffer_idle {s : State} {b : Buf} (off : Nat) (bs : List Byte) (hidle : s.busy = false)
    (hb : b = .keyBuf ∨ b = .inBuf) : s.writeBuffer b off bs = { s with mem := Memory.writeRun s.mem off bs } := by
  rcases hb with rfl | rfl <;> exact State.guarded_idle _ hidle

theorem windowAccess_wr32_idle {s : State} {off : Nat} (d : Word32) (hidle : s.busy = false) (h4 : off % 4 = 0)
    (h : (0x400 ≤ off ∧ off < 0x440) ∨ (0x800 ≤ off ∧ off < 0xC00)) :
    windowAccess s off (.wr32 d) = ({ s with mem := Memory.writeRun s.mem off (wordBytes d) }, .written) := by
  obtain ⟨b, ht, hb⟩ := targetOf_writable h
  rw [windowAccess_wr32 s d h4, s.writeWord_buffer d ht, State.writeBuffer_idle off _ hidle hb]

theorem windowAccess_wr8_idle {s : State} {off : Nat} (d : Byte) (hidle : s.busy = false)
    (h : (0x400 ≤ off ∧ off < 0x440) ∨ (0x800 ≤ off ∧ off < 0xC00)) :
    windowAccess s off (.wr8 d) = ({ s with mem := Memory.writeRun s.mem off [d] }, .written) := by
  obtain ⟨b, ht, hb⟩ := targetOf_writable h
  rw [windowAccess_wr8 s d (inBuffer_eq_true.2 ⟨b, ht⟩), s.writeByte_buffer d ht, State.writeBuffer_idle off _ hidle hb]

/-! ## The halves of a 64-bit register -/

theorem windowAccess_rd32_low (s : State) (r : Reg64) :
    windowAccess s r.offset .rd32 = (s, .data32 ((s.get64 r).extractLsb' 0 32)) := by
  have := r.offset_bounds
  rw [windowAccess_rd32 s (by omega), s.readWord_half (targetOf_reg64_low r)]
  rfl

theorem windowAccess_rd32_high (s : State) (r : Reg64) :
    windowAccess s (r.offset + 4) .rd32 = (s, .data32 ((s.get64 r).extractLsb' 32 32)) := by
  have := r.offset_bounds
  rw [windowAccess_rd32 s (by omega), s.readWord_half (targetOf_reg64_high r)]
  rfl

/-- The half written, and the half kept. -/
theorem setHalf_low (v : Word64) (d : Word32) :
    (setHalf v false d).extractLsb' 0 32 = d ∧ (setHalf v false d).extractLsb' 32 32 = v.extractLsb' 32 32 :=
  ⟨BitVec.extractLsb'_append_eq_right, BitVec.extractLsb'_append_eq_left⟩

theorem setHalf_high (v : Word64) (d : Word32) :
    (setHalf v true d).extractLsb' 32 32 = d ∧ (setHalf v true d).extractLsb' 0 32 = v.extractLsb' 0 32 :=
  ⟨BitVec.extractLsb'_append_eq_left, BitVec.extractLsb'_append_eq_right⟩

/-- Settles O46: the bytes of a word read and written, then the halves of a register read and written. -/
theorem wordsAreLittleEndian : Obligations.WordsAreLittleEndian := by
  refine ⟨fun s b k v hk hv => ?_, fun s b k v0 v1 v2 v3 hk h4 h0 h1 h2 h3 => ?_,
    fun s off j w h4 h hj hw => rd8_of_rd32 h4 h hj hw, fun s off w h4 hidle h => ?_, fun s off d hidle h => ?_,
    fun s r => ⟨windowAccess_rd32_low s r, windowAccess_rd32_high s r⟩, fun s r d hidle hr => ?_⟩
  · rw [windowAccess_rd8 s (inBuffer_start_add b hk), State.hostByte_of_byte hv]
  · have haligned : (b.start + k) % 4 = 0 := by have := b.start_mod_four; omega
    refine ⟨_, windowAccess_rd32_buffer s haligned (inBuffer_start_add b hk), ?_⟩
    rw [State.bufferWord_of_bytes h0 h1 h2 h3]
    exact extract_joined_bytes v3 v2 v1 v0
  · refine ⟨_, windowAccess_wr32_idle w hidle h4 h, rfl, fun j hj => ?_, fun x hx => ?_⟩
    · exact (Memory.read_writeRun_inside s.mem off (wordBytes w) hj).trans (congrArg some (wordBytes_getElem w hj))
    · exact Memory.read_writeRun_outside s.mem off (wordBytes w) (by rw [wordBytes_length]; omega)
  · refine ⟨_, windowAccess_wr8_idle d hidle h, rfl, Memory.read_write_self s.mem off d, fun x hx => ?_⟩
    exact Memory.read_write_other s.mem d hx
  · have hop : r ∈ operandRegisters := by simpa [operandRegisters] using hr
    refine ⟨s.setHalf64 r false d, s.setHalf64 r true d, ?_, ?_, ?_⟩
    · rw [windowAccess_wr32_low, State.writeHalf_idle false d hidle hop]
    · rw [windowAccess_wr32_high, State.writeHalf_idle true d hidle hop]
    · rw [State.get64_setHalf64_self s false d hop, State.get64_setHalf64_self s true d hop]
      obtain ⟨hlow, hkept⟩ := setHalf_low (s.get64 r) d
      obtain ⟨hhigh, hkept'⟩ := setHalf_high (s.get64 r) d
      refine ⟨hlow, hkept, hhigh, hkept', ?_⟩
      simp only [List.forall_mem_cons, List.not_mem_nil, false_imp_iff, implies_true, and_true]
      exact ⟨⟨s.setHalf64_frame r false d, fun q => s.get64_setHalf64_other false d⟩,
        s.setHalf64_frame r true d, fun q => s.get64_setHalf64_other true d⟩

end Sys2Proof.Machine
end

section
/-! PROOFS. A pending command and the host: the command keeps its inputs, and quiet accesses keep the command
(20_memory.md R206, R215; 60_exceptions.md R701; 92_eei_decisions.md D35). -/

namespace Sys2Proof.Machine

/-! ## What a command keeps -/

/-- A command writes no byte but of the output buffers. -/
theorem CommandAnswers.byte_input {i : Instr} {s t : State} (h : CommandAnswers s i t) {b : Buf} {k : Nat}
    (hout : b ≠ .outBuf) (hrank : b ≠ .rankBuf) (hk : k < b.size) : t.byte b k = s.byte b k := by
  have hwriteOut {T : List Letter} (hT : T.length ≤ 1087) : (s.writeOut T).byte b k = s.byte b k :=
    byte_putBytes_other s hout.symm (letters_fit_outBuf hT) hk
  cases h with
  | error | keyError | result | key => rfl
  | text _ hT => exact hwriteOut (by omega)
  | grid _ _ hK hT =>
    exact (byte_putBytes_other _ hrank.symm (rankBytes_fit_rankBuf hK) hk).trans (hwriteOut hT)

/-- A command writes no register that is an input, and nothing of the model's own. -/
theorem CommandAnswers.inputs {i : Instr} {s t : State} (h : CommandAnswers s i t) :
    t.cmd = s.cmd ∧ t.op0 = s.op0 ∧ t.op1 = s.op1 ∧ t.op2 = s.op2 ∧ t.inLen = s.inLen ∧ t.keyLen = s.keyLen ∧
    t.turns = s.turns ∧ t.resp = s.resp ∧ t.powerEpoch = s.powerEpoch := by
  cases h with
  | error | keyError | result | key | text | grid => simp

/-- Settles O11: the input registers and the input buffers are none of a command's outputs. -/
theorem commandsKeepTheirInputs : Obligations.CommandsKeepTheirInputs := by
  intro i s t h
  have hanswers := exec_answers h
  obtain ⟨hcmd, hop0, hop1, hop2, hin, hkey, hturns, hresp, hepoch⟩ := hanswers.inputs
  exact ⟨hcmd, hop0, hop1, hop2, hin, hkey, hturns, hresp, hepoch,
    fun _ => hanswers.byte_input (b := .inBuf) (by decide) (by decide),
    fun _ => hanswers.byte_input (b := .keyBuf) (by decide) (by decide)⟩

/-! ## What no command reads -/

/-- `s` with other values of IE, WERR and the model's response, which are no input of a command. -/
def State.withHostSide (s : State) (ie werr : Bool) (resp : Response) : State :=
  { s with ie := ie, werr := werr, resp := resp }

/-- `s` as quiet host accesses can leave a busy block; every completion sets DONE again. -/
def State.touched (s : State) (done ie werr : Bool) (resp : Response) : State :=
  { s.withHostSide ie werr resp with done := done }

/-- `f` applied to the next state of an outcome, if it has one. -/
def mapNext (f : State → State) : Host.Outcome State Fault Refusal → Host.Outcome State Fault Refusal
  | .next s => .next (f s)
  | .fault e => .fault e
  | .refused r => .refused r

variable (s : State) (done ie werr : Bool) (resp : Response)

theorem affineCommand_touched (f : Int → Int → Letter → Letter) :
    affineCommand f (s.touched done ie werr resp) =
      mapNext (fun v => v.withHostSide ie werr resp) (affineCommand f s) := by
  have hlen : (s.touched done ie werr resp).inLenBad = s.inLenBad := rfl
  have hkey : (s.touched done ie werr resp).keyA = s.keyA := rfl
  have hmsg : (s.touched done ie werr resp).message (s.touched done ie werr resp).inCount = s.message s.inCount := rfl
  simp only [affineCommand, hlen, hkey, hmsg]
  split_ifs
  · rfl
  · cases s.message s.inCount with
    | none => rfl
    | some P => cases P <;> rfl
  · rfl

theorem columnCommand_touched (f : List Letter → List Letter → List Letter) :
    columnCommand f (s.touched done ie werr resp) =
      mapNext (fun v => v.withHostSide ie werr resp) (columnCommand f s) := by
  have hlen : (s.touched done ie werr resp).lengthsBad = s.lengthsBad := rfl
  have hkey : (s.touched done ie werr resp).keyword (s.touched done ie werr resp).keyCount = s.keyword s.keyCount := rfl
  have hmsg : (s.touched done ie werr resp).message (s.touched done ie werr resp).inCount = s.message s.inCount := rfl
  simp only [columnCommand, hlen, hkey, hmsg]
  split_ifs
  · rfl
  · cases s.keyword s.keyCount with
    | none => rfl
    | some K =>
      dsimp only
      split_ifs
      · rfl
      · cases s.message s.inCount with
        | none => rfl
        | some P => cases P <;> rfl

/-- A command completes alike whatever quiet accesses left in DONE, IE, WERR and the response. -/
theorem exec_touched (i : Instr) :
    exec i (s.touched done ie werr resp) = mapNext (fun v => v.withHostSide ie werr resp) (exec i s) := by
  have h0 : (s.touched done ie werr resp).u0 = s.u0 := rfl
  have h1 : (s.touched done ie werr resp).u1 = s.u1 := rfl
  have h2 : (s.touched done ie werr resp).u2 = s.u2 := rfl
  cases i with
  | modexp | rsaenc | rsadec =>
    simp only [exec, execModexp, execRsaenc, execRsadec, h0, h1, h2]
    split_ifs <;> rfl
  | modinv =>
    simp only [exec, execModinv, h0, h1]
    split_ifs
    · rfl
    · cases modInvExt s.u0 s.u1 <;> rfl
  | isprime => rfl
  | rsakeygen =>
    simp only [exec, execRsakeygen, h0, h1]
    split_ifs <;> rfl
  | affenc | affdec => exact affineCommand_touched s done ie werr resp _
  | colenc | coldec => exact columnCommand_touched s done ie werr resp _

/-! ## What a quiet access of a busy block leaves -/

/-- `u` is `s` but for DONE, IE and WERR. -/
def State.TouchesOnly (s u : State) : Prop := ∃ done ie werr, u = s.touched done ie werr s.resp

variable {s}

theorem State.TouchesOnly.of_same {u : State} (h : u = s) : s.TouchesOnly u := ⟨s.done, s.ie, s.werr, h⟩

theorem State.TouchesOnly.of_refused {u : State} (h : u = s.refuseWrite) : s.TouchesOnly u :=
  ⟨s.done, s.ie, true, h⟩

/-- A register write of a busy block, no soft reset, stores nothing but IE and clears nothing but DONE and WERR. -/
theorem State.write32_touchesOnly {r : Reg32} {d : Word32} (hbusy : s.busy = true)
    (hquiet : r = .ctrl → d.getLsbD 1 = false) : s.TouchesOnly (s.write32 r d) := by
  obtain h | ⟨-, h⟩ | ⟨hr, hd, -⟩ | ⟨-, -, h⟩ | ⟨-, h⟩ | ⟨hidle, -⟩ | ⟨hidle, -⟩ | ⟨hidle, -⟩ := s.write32_cases r d
  · exact .of_same h
  · exact .of_refused h
  · cases (hquiet hr).symm.trans hd
  · exact ⟨s.done, d.getLsbD 0, s.werr, h⟩
  · exact ⟨s.done && !d.getLsbD 1, s.ie, s.werr && !d.getLsbD 4, h⟩
  all_goals cases hbusy.symm.trans hidle

theorem State.writeHalf_touchesOnly (r : Reg64) (high : Bool) (d : Word32) (hbusy : s.busy = true) :
    s.TouchesOnly (s.writeHalf r high d) := by
  obtain h | ⟨-, h⟩ | ⟨hidle, -⟩ := s.writeHalf_cases r high d
  · exact .of_same h
  · exact .of_refused h
  · cases hbusy.symm.trans hidle

theorem State.writeBuffer_touchesOnly (b : Buf) (off : Nat) (bs : List Byte) (hbusy : s.busy = true) :
    s.TouchesOnly (s.writeBuffer b off bs) := by
  obtain h | ⟨-, h⟩ | ⟨hidle, -⟩ := s.writeBuffer_cases b off bs
  · exact .of_same h
  · exact .of_refused h
  · cases hbusy.symm.trans hidle

theorem busAccess_touchesOnly {a : BusAccess} (hbusy : s.busy = true) (hquiet : isSoftReset a = false) :
    s.TouchesOnly (busAccess s a).1 := by
  cases hoff : offsetOf a.addr with
  | none => exact .of_same (by rw [busAccess_outside s hoff])
  | some off =>
    rw [busAccess_inside s hoff]
    obtain h | ⟨r, d, hop, ht, h4, h⟩ | ⟨r, high, d, -, -, -, h⟩ | ⟨b, d, -, -, -, h⟩ | ⟨b, d, -, -, h⟩ :=
      windowAccess_cases s off a.op
    · exact .of_same h
    · rw [h]
      refine State.write32_touchesOnly hbusy fun hr => ?_
      subst hr
      rw [off_eq_offset_of_targetOf ht h4] at hoff
      exact Bool.eq_false_iff.2 fun hd => Bool.eq_false_iff.1 hquiet (isSoftReset_of_ctrl_write hoff hop hd)
    · exact h ▸ State.writeHalf_touchesOnly r high d hbusy
    · exact h ▸ State.writeBuffer_touchesOnly b off _ hbusy
    · exact h ▸ State.writeBuffer_touchesOnly b off _ hbusy

/-- A quiet host turn of a busy block takes the turn, and touches nothing the pending command reads or writes. -/
theorem step_quiet {a : BusAccess} {ts : List Turn} (hbusy : s.busy = true) (hts : s.turns = .host a :: ts)
    (hpermitted : isPermitted a = true) (hquiet : isSoftReset a = false) :
    ∃ done ie werr resp, step s = .next (State.touched { s with turns := ts } done ie werr resp) := by
  obtain ⟨done, ie, werr, h⟩ := busAccess_touchesOnly (s := { s with turns := ts }) hbusy hquiet
  refine ⟨done, ie, werr, (busAccess { s with turns := ts } a).2, ?_⟩
  rw [step_host hts, hostTurn_eq, if_pos hpermitted, h]
  rfl

/-! ## The run -/

theorem run_succ {t : State} {n : Nat} (h : step s = .next t) :
    Sys2Proof.core.run (n + 1) s = Sys2Proof.core.run n t := by
  simp only [Host.Core.run, show Sys2Proof.core.step s = .next t from h]

/-- With no turn left, the pending command runs (92_eei_decisions.md D35). -/
theorem step_pending {i : Instr} (hbusy : s.busy = true) (hcmd : decode s.cmd = .ok i) (hts : s.turns = []) :
    step s = exec i { s with turns := [] } := by
  have hs : { s with turns := [] } = s := by cases s; cases hts; rfl
  rw [hs, step, hts]
  change engineTurn s = _
  rw [engineTurn, if_pos hbusy, engineStep, hcmd]

theorem run_quiet {i : Instr} {v : State} {accs : List BusAccess} (hbusy : s.busy = true)
    (hcmd : decode s.cmd = .ok i) (hts : s.turns = accs.map Turn.host)
    (hquiet : ∀ a ∈ accs, isPermitted a = true ∧ isSoftReset a = false)
    (hexec : exec i { s with turns := [] } = .next v) :
    ∃ ie werr resp, Sys2Proof.core.run (accs.length + 1) s = .next (v.withHostSide ie werr resp) := by
  induction accs generalizing s v with
  | nil =>
    refine ⟨v.ie, v.werr, v.resp, ?_⟩
    exact run_succ ((step_pending hbusy hcmd hts).trans hexec)
  | cons a accs ih =>
    obtain ⟨⟨hpermitted, hreset⟩, hrest⟩ := List.forall_mem_cons.1 hquiet
    obtain ⟨done, ie, werr, resp, hstep⟩ := step_quiet hbusy hts hpermitted hreset
    have hexec' := exec_touched { s with turns := [] } done ie werr resp i
    rw [hexec] at hexec'
    obtain ⟨ie', werr', resp', hrun⟩ := ih (s := State.touched { s with turns := accs.map Turn.host } done ie werr resp)
      hbusy hcmd rfl hrest hexec'
    exact ⟨ie', werr', resp', (run_succ hstep).trans hrun⟩

/-- Settles O16: each access in turn touches no input of the command, so it completes as it would have at once. -/
theorem busyAccessesNeitherDelayNorChangeTheCommand : Obligations.BusyAccessesNeitherDelayNorChangeTheCommand := by
  intro s v i accs hbusy hcmd hts hquiet hexec
  obtain ⟨ie, werr, resp, hrun⟩ := run_quiet hbusy hcmd hts hquiet hexec
  exact ⟨_, hrun, rfl⟩

end Sys2Proof.Machine
end

section
/-! PROOFS. The command word: decoder and encoder, the words of no command, and the disassembly (30_encoding.md R301,
R302, R310). -/

namespace Sys2Proof.Machine

/-! ## The opcode map (R301) -/

theorem decode_encode (i : Instr) : decode (encode i) = .ok i := by cases i <;> rfl

theorem decode_eq_ok {w : Word32} {i : Instr} : decode w = .ok i ↔ w = encode i :=
  ⟨eq_encode_of_decode, fun h => h ▸ decode_encode i⟩

/-- The commands, in the order of the opcode map. -/
def allInstrs : List Instr :=
  [.modexp, .modinv, .isprime, .rsakeygen, .rsaenc, .rsadec, .affenc, .affdec, .colenc, .coldec]

theorem mem_allInstrs (i : Instr) : i ∈ allInstrs := by cases i <;> decide

/-- The values that R301 lists, as the commands' words. -/
def opcodeMap : List Nat := allInstrs.map fun i => (encode i).toNat

theorem mem_opcodeMap {w : Word32} : w.toNat ∈ opcodeMap ↔ ∃ i, w = encode i := by
  simp [opcodeMap, mem_allInstrs, ← BitVec.toNat_inj, eq_comm]

theorem lt_of_mem_opcodeMap : ∀ n ∈ opcodeMap, n < 2 ^ 8 := by decide

theorem rsvdField_toNat (w : Word32) : (rsvdField w).toNat = w.toNat / 2 ^ 8 := by
  have := w.isLt
  rw [rsvdField, BitVec.extractLsb'_toNat, Nat.shiftRight_eq_div_pow, Nat.mod_eq_of_lt (by omega)]

theorem rsvdField_eq_zero {w : Word32} : rsvdField w = 0 ↔ w.toNat < 2 ^ 8 := by
  rw [← BitVec.toNat_inj, rsvdField_toNat]
  exact Nat.div_eq_zero_iff_lt (by decide)

theorem opcField_toNat (w : Word32) : (opcField w).toNat = w.toNat % 2 ^ 8 := by simp [opcField]

/-- A word is a listed value exactly when its two fields are legal: every listed value lies in OPC. -/
theorem mem_opcodeMap_iff_fields {w : Word32} :
    w.toNat ∈ opcodeMap ↔ rsvdField w = 0 ∧ (opcField w).toNat ∈ opcodeMap := by
  rw [rsvdField_eq_zero, opcField_toNat]
  constructor
  · intro h
    have hlt := lt_of_mem_opcodeMap _ h
    exact ⟨hlt, (Nat.mod_eq_of_lt hlt).symm ▸ h⟩
  · rintro ⟨hlt, h⟩
    exact Nat.mod_eq_of_lt hlt ▸ h

theorem exists_decode_iff {w : Word32} : (∃ i, decode w = .ok i) ↔ w.toNat ∈ opcodeMap := by
  rw [mem_opcodeMap]
  exact exists_congr fun _ => decode_eq_ok

/-- Settles O1: the decoder inverts the encoder, whose words are the listed values. -/
theorem decodeAcceptsExactlyTheOpcodeMap : Obligations.DecodeAcceptsExactlyTheOpcodeMap := by
  intro w
  exact ⟨fun _ => decode_eq_ok, exists_decode_iff, exists_decode_iff.trans mem_opcodeMap_iff_fields,
    decode_encode .modexp, decode_encode .modinv, decode_encode .isprime, decode_encode .rsakeygen,
    decode_encode .rsaenc, decode_encode .rsadec, decode_encode .affenc, decode_encode .affdec,
    decode_encode .colenc, decode_encode .coldec⟩

/-! ## Words of no command (R302) -/

theorem decode_illegal {w : Word32} (h : ∀ i, w ≠ encode i) : ∃ e, decode w = .error e := by
  cases hd : decode w with
  | error e => exact ⟨e, rfl⟩
  | ok i => exact absurd (eq_encode_of_decode hd) (h i)

/-- Only RSAKEYGEN's word clears KEY_VALID (40_codec_and_command.md R401). -/
theorem State.accept_keeps_keyValid (s : State) {w : Word32} (h : w ≠ encode .rsakeygen) :
    s.accept w = { s with cmd := w, busy := true, done := false } := by
  have hw : (w != 0x00000004) = true := bne_iff_ne.2 h
  rw [State.accept, hw, Bool.and_true]

theorem engineTurn_illegal {s : State} (hbusy : s.busy = true) (hcmd : ∀ i, s.cmd ≠ encode i) :
    engineTurn s = .next (s.complete (some .illegalCommand)) := by
  obtain ⟨e, he⟩ := decode_illegal hcmd
  rw [engineTurn, if_pos hbusy, engineStep, he]
  rfl

/-- Settles O4: an illegal word is not RSAKEYGEN's, so acceptance keeps KEY_VALID, and the decoder has no command for the
engine to run. -/
theorem illegalWordOnlyReportsIllegalCommand : Obligations.IllegalWordOnlyReportsIllegalCommand := by
  intro s w hw
  refine ⟨fun hidle => ?_, fun ts hbusy hcmd hts => ?_⟩
  · rw [← s.accept_keeps_keyValid (hw .rsakeygen)]
    exact (windowAccess_wr32_reg32 s .cmd w).trans (congrArg (·, _) (State.guarded_idle _ hidle))
  · rw [step, hts]
    exact engineTurn_illegal hbusy (hcmd ▸ hw)

/-! ## Disassembly (R310) -/

theorem disassemble_encode (i : Instr) : disassemble (encode i) = i.mnemonic := by rw [disassemble, decode_encode]

theorem disassemble_illegal {w : Word32} (h : ∀ i, w ≠ encode i) :
    disassemble w = ".illegal 0x" ++ String.ofList (hexDigits 8 w.toNat) := by
  obtain ⟨e, he⟩ := decode_illegal h
  rw [disassemble, he]

theorem hexDigits_length (n v : Nat) : (hexDigits n v).length = n := by
  induction n with
  | zero => rfl
  | succ n ih => rw [hexDigits, List.length_cons, ih]

/-- A digit stands in the list of the capitals at its own value. -/
theorem idxOf_hexDigit : ∀ k < 16, "0123456789ABCDEF".toList.idxOf (hexDigit k) = k := by decide

theorem hexDigit_mem {k : Nat} (h : k < 16) : hexDigit k ∈ "0123456789ABCDEF".toList :=
  List.idxOf_lt_length_iff.1 ((idxOf_hexDigit k h).symm ▸ h)

theorem mem_hexDigits {n v : Nat} {d : Char} (h : d ∈ hexDigits n v) : d ∈ "0123456789ABCDEF".toList := by
  induction n with
  | zero => cases h
  | succ n ih =>
    obtain rfl | h := List.mem_cons.1 h
    · exact hexDigit_mem (Nat.mod_lt _ (by decide))
    · exact ih h

/-- One digit more in front of a digit string, whatever was read before. -/
theorem foldl_hexDigits (n v a : Nat) :
    (hexDigits n v).foldl (fun n c => 16 * n + "0123456789ABCDEF".toList.idxOf c) a = 16 ^ n * a + v % 16 ^ n := by
  induction n generalizing a with
  | zero => simp [hexDigits, Nat.mod_one]
  | succ n ih =>
    rw [hexDigits, List.foldl_cons, idxOf_hexDigit _ (Nat.mod_lt _ (by decide)), ih, Nat.pow_succ, Nat.mod_mul]
    ring

theorem hexValue_hexDigits (n v : Nat) : hexValue (hexDigits n v) = v % 16 ^ n := by
  rw [hexValue, foldl_hexDigits, Nat.mul_zero, Nat.zero_add]

/-- Eight digits hold a whole word. -/
theorem hexValue_hexDigits_word (w : Word32) : hexValue (hexDigits 8 w.toNat) = w.toNat :=
  (hexValue_hexDigits 8 w.toNat).trans (Nat.mod_eq_of_lt w.isLt)

theorem mnemonics_distinct : ∀ i ∈ allInstrs, ∀ j ∈ allInstrs, i.mnemonic = j.mnemonic → i = j := by decide

theorem mnemonic_injective {i j : Instr} (h : i.mnemonic = j.mnemonic) : i = j :=
  mnemonics_distinct i (mem_allInstrs i) j (mem_allInstrs j) h

/-- No mnemonic begins with a point. -/
theorem mnemonic_ne_illegal (i : Instr) (ds : List Char) : i.mnemonic ≠ ".illegal 0x" ++ String.ofList ds := by
  intro h
  have hhead : i.mnemonic.toList.head? = some '.' := by rw [h, String.toList_append]; rfl
  cases i <;> cases hhead

/-- The spelling of an illegal word gives its digits back, and with them the word. -/
theorem illegal_spelling_injective {w v : Word32}
    (h : ".illegal 0x" ++ String.ofList (hexDigits 8 w.toNat) = ".illegal 0x" ++ String.ofList (hexDigits 8 v.toNat)) :
    w = v := by
  have hdigits : hexDigits 8 w.toNat = hexDigits 8 v.toNat := by
    simpa only [String.toList_append, String.toList_ofList, List.append_cancel_left_eq] using congrArg String.toList h
  apply BitVec.eq_of_toNat_eq
  rw [← hexValue_hexDigits_word w, hdigits, hexValue_hexDigits_word]

theorem disassemble_injective {w v : Word32} (h : disassemble w = disassemble v) : w = v := by
  by_cases hw : ∃ i, w = encode i <;> by_cases hv : ∃ j, v = encode j
  · obtain ⟨i, rfl⟩ := hw
    obtain ⟨j, rfl⟩ := hv
    rw [disassemble_encode, disassemble_encode] at h
    rw [mnemonic_injective h]
  · obtain ⟨i, rfl⟩ := hw
    rw [disassemble_encode, disassemble_illegal (not_exists.1 hv)] at h
    exact absurd h (mnemonic_ne_illegal i _)
  · obtain ⟨j, rfl⟩ := hv
    rw [disassemble_encode, disassemble_illegal (not_exists.1 hw)] at h
    exact absurd h.symm (mnemonic_ne_illegal j _)
  · rw [disassemble_illegal (not_exists.1 hw), disassemble_illegal (not_exists.1 hv)] at h
    exact illegal_spelling_injective h

/-- Settles O5: a command's word is spelled by its mnemonic, any other by the digits that its value gives back. -/
theorem disassemblySpellsEveryWord : Obligations.DisassemblySpellsEveryWord :=
  ⟨disassemble_encode,
    fun w hw => ⟨hexDigits 8 w.toNat, hexDigits_length 8 _, fun _ => mem_hexDigits, hexValue_hexDigits_word w,
      disassemble_illegal hw⟩,
    fun _ _ => disassemble_injective⟩

end Sys2Proof.Machine
end

section
/-! PROOFS. Host scripts: one read and one branch of a script, and from them `WAIT` and `GET64` (30_encoding.md R307,
R309). -/

namespace Sys2Proof.Machine

/-! ## One statement -/

/-- The statements of a line's expansion stand in the script after what comes before the line. -/
theorem stmt_of_expansion {script pre mid rest : List HostStmt} {st : HostStmt} {k i : Nat}
    (hs : script = pre ++ mid ++ rest) (hk : k = pre.length + i) (hi : mid[i]? = some st) : script[k]? = some st := by
  obtain ⟨hlt, -⟩ := List.getElem?_eq_some_iff.1 hi
  rw [hs, hk, List.append_assoc, List.getElem?_append_right (by omega), Nat.add_sub_cancel_left,
    List.getElem?_append_left hlt, hi]

/-- The host after a word read that the block answered with `d`. -/
def HostSystem.afterRead (h : HostSystem) (v : HostVar) (d : Word32) : HostSystem :=
  { h with
    block := { h.block with turns := [], resp := .data32 d }
    at_ := h.at_ + 1
    vars := HostVars.readInto h.vars v d }

theorem HostSystem.step_rd32 {h : HostSystem} {off : Nat} {v : HostVar} (hst : h.script[h.at_]? = some (.rd32 off v))
    (hoff : off < 0x2000) (h4 : off % 4 = 0) :
    h.step false = .next (h.afterRead v (h.block.readWord off)) := by
  simp only [HostSystem.step, Bool.false_eq_true, if_false, HostSystem.stmtStep, hst]
  exact h.access_rd32 v hoff h4

theorem HostSystem.step_bz {h : HostSystem} {e : HostExpr} {l : HostLabel} {x : Word64} {k : Nat}
    (hst : h.script[h.at_]? = some (.bz e l)) (hx : h.varValue e.variable = some x)
    (hl : labelIndex h.script l = some k) :
    h.step false = .next { h with at_ := if e.value x = 0 then k else h.at_ + 1 } := by
  simp only [HostSystem.step, Bool.false_eq_true, if_false, HostSystem.stmtStep, hst, HostSystem.branch, hx, hl,
    beq_true, beq_iff_eq]
  split <;> rfl

/-! ## WAIT -/

/-- The word that `WAIT` reads is STATUS. -/
theorem State.readWord_status (s : State) : s.readWord Reg32.status.offset = s.statusWord :=
  s.readWord_reg32 (targetOf_reg32_offset .status)

/-- The mask of `WAIT` keeps DONE alone (10_state.md R104). -/
theorem State.statusWord_mask_eq_zero (s : State) : s.statusWord.setWidth 64 &&& 0x2 = 0 ↔ s.done = false := by
  obtain ⟨-, hdone, -⟩ := s.statusWord_bits
  have hbit : (s.statusWord.setWidth 64).getLsbD 1 = s.done := by rw [BitVec.getLsbD_setWidth, hdone]; rfl
  rw [show (0x2 : Word64) = BitVec.twoPow 64 1 from rfl, BitVec.and_twoPow, hbit]
  cases s.done <;> decide

/-- Settles O48: the read takes STATUS into `$s`, and the branch on its DONE goes on or to the label, which stands first
where the loop begins. -/
theorem waitLeavesOnDone : Obligations.WaitLeavesOnDone := by
  intro h k pre rest hscript hlabel hat
  have hread : h.script[h.at_]? = some (.rd32 Reg32.status.offset statusVar) := stmt_of_expansion hscript hat rfl
  have hbz : h.script[h.at_ + 1]? = some (.bz (.mask statusVar 0x2) (.fresh k)) :=
    stmt_of_expansion (i := 2) hscript (congrArg (· + 1) hat) rfl
  have hplace : labelIndex h.script (.fresh k) = some pre.length := by
    rw [hscript, List.append_assoc]
    exact labelIndex_of_prefix hlabel
  have hstep := HostSystem.step_rd32 hread (by decide) (by decide)
  rw [State.readWord_status] at hstep
  have hstep' := HostSystem.step_bz (h := h.afterRead statusVar h.block.statusWord) hbz
    (HostVars.value_readInto_whole h.vars "s" h.block.statusWord) hplace
  have hmask := h.block.statusWord_mask_eq_zero
  refine ⟨_, _, hstep, hstep', rfl, rfl, fun hdone => ?_, fun hdone => if_pos (hmask.2 hdone)⟩
  exact (if_neg (mt hmask.1 (by simp [hdone]))).trans (congrArg (· + 2) hat)

/-! ## GET64 -/

/-- What `$v`, `$v.lo` and `$v.hi` are worth once the low and then the high half are read. -/
theorem HostVars.value_readInto_lo_hi (vs : HostVars) (v : String) (lo hi : Word32) :
    HostVars.value (HostVars.readInto (HostVars.readInto vs (.lo v) lo) (.hi v) hi) (.whole v) = some (hi ++ lo) ∧
    HostVars.value (HostVars.readInto (HostVars.readInto vs (.lo v) lo) (.hi v) hi) (.lo v) = some (lo.setWidth 64) ∧
    HostVars.value (HostVars.readInto (HostVars.readInto vs (.lo v) lo) (.hi v) hi) (.hi v) = some (hi.setWidth 64) := by
  simp only [HostVars.value, HostVar.name, HostVars.held_readInto_lo_hi]
  exact ⟨rfl, rfl, rfl⟩

/-- A read keeps every 64-bit register. -/
theorem HostSystem.get64_afterRead (h : HostSystem) (v : HostVar) (d : Word32) (r : Reg64) :
    (h.afterRead v d).block.get64 r = h.block.get64 r := by cases r <;> rfl

/-- Settles O58: the two reads take the register's low and its high word, which join to the register. -/
theorem get64JoinsTheHalves : Obligations.Get64JoinsTheHalves := by
  intro h k r v pre rest hscript hat
  obtain ⟨h8, -, hlt⟩ := r.offset_bounds
  have hlow : h.script[h.at_]? = some (.rd32 r.offset (.lo v)) := stmt_of_expansion (i := 0) hscript hat rfl
  have hhigh : h.script[h.at_ + 1]? = some (.rd32 (r.offset + 4) (.hi v)) :=
    stmt_of_expansion (i := 1) hscript (congrArg (· + 1) hat) rfl
  have hstep := HostSystem.step_rd32 hlow (by omega) (by omega)
  rw [(h.block.readWord_reg64 r).1] at hstep
  have hstep' := HostSystem.step_rd32 (h := h.afterRead (.lo v) ((h.block.get64 r).extractLsb' 0 32)) hhigh (by omega)
    (by omega)
  rw [(State.readWord_reg64 _ r).2, HostSystem.get64_afterRead] at hstep'
  have hjoin : (h.block.get64 r).extractLsb' 32 32 ++ (h.block.get64 r).extractLsb' 0 32 = h.block.get64 r :=
    BitVec.extractLsb'_append_extractLsb'
  obtain ⟨hwhole, hlo, hhi⟩ := HostVars.value_readInto_lo_hi h.vars v ((h.block.get64 r).extractLsb' 0 32)
    ((h.block.get64 r).extractLsb' 32 32)
  refine ⟨_, _, hstep, hstep', congrArg (· + 2) hat, hwhole.trans (congrArg some hjoin), ⟨_, _, hjoin.symm, hlo, hhi⟩,
    fun x hx => ?_, rfl⟩
  exact (HostVars.value_readInto_other _ _ hx).trans (HostVars.value_readInto_other _ _ hx)

end Sys2Proof.Machine
end

section
/-! PROOFS. The Alphabet Codec byte by byte: which bytes `Filter` keeps, and that it reads `Letter2Byte` back
(40_codec_and_command.md R410, R411). -/

namespace Sys2Proof.Machine

/-! ## The Letter of one byte -/

theorem byteLetter_upper {c : Byte} (hlo : 0x41 ≤ c.toNat) (hhi : c.toNat ≤ 0x5A) :
    ∃ l : Letter, l.val = c.toNat - 0x41 ∧ byteLetter c = some l :=
  ⟨Fin.ofNat 26 (c.toNat - 0x41), Nat.mod_eq_of_lt (by omega), if_pos ⟨hlo, hhi⟩⟩

theorem byteLetter_lower {c : Byte} (hlo : 0x61 ≤ c.toNat) (hhi : c.toNat ≤ 0x7A) :
    ∃ l : Letter, l.val = c.toNat - 0x61 ∧ byteLetter c = some l := by
  refine ⟨Fin.ofNat 26 (c.toNat - 0x61), Nat.mod_eq_of_lt (by omega), ?_⟩
  rw [byteLetter, if_neg (by omega), if_pos ⟨hlo, hhi⟩]

theorem byteLetter_other {c : Byte} (h : c.toNat < 0x41 ∨ (0x5A < c.toNat ∧ c.toNat < 0x61) ∨ 0x7A < c.toNat) :
    byteLetter c = none := by
  rw [byteLetter, if_neg (by omega), if_neg (by omega)]

theorem byteLetter_letterByte : ∀ l : Letter, byteLetter (letterByte l) = some l := by decide

/-! ## Whole texts -/

/-- Settles O29: the ranges of `byteLetter`, one byte at a time. -/
theorem filterKeepsExactlyTheLetters : Obligations.FilterKeepsExactlyTheLetters := by
  refine ⟨rfl, fun c bs => ⟨fun hlo hhi => ?_, fun hlo hhi => ?_, fun h => ?_⟩⟩
  · obtain ⟨l, hval, hl⟩ := byteLetter_upper hlo hhi
    exact ⟨l, hval, List.filterMap_cons_some hl⟩
  · obtain ⟨l, hval, hl⟩ := byteLetter_lower hlo hhi
    exact ⟨l, hval, List.filterMap_cons_some hl⟩
  · exact List.filterMap_cons_none (byteLetter_other h)

theorem filterText_map_letterByte (t : List Letter) : filterText (t.map letterByte) = t := by
  induction t with
  | nil => rfl
  | cons l t ih => exact (List.filterMap_cons_some (byteLetter_letterByte l)).trans (congrArg (l :: ·) ih)

/-- Settles O30: `Letter2Byte` adds the remainder to 'A', and `Filter` takes it off again. -/
theorem letterBytesAreReadBack : Obligations.LetterBytesAreReadBack :=
  ⟨fun v => ⟨normMod v 26, normMod_lt v (by decide), dvd_sub_normMod v (by decide), rfl⟩, filterText_map_letterByte⟩

end Sys2Proof.Machine
end

section
/-! PROOFS. The life of a command: its acceptance, the engine's turn that runs it, and what its completion reports
(40_codec_and_command.md R401 to R404; 60_exceptions.md R700). -/

namespace Sys2Proof.Machine

/-! ## Acceptance (R401) -/

theorem windowAccess_cmd_busy {s : State} (w : Word32) (hbusy : s.busy = true) :
    windowAccess s 0x008 (.wr32 w) = (s.refuseWrite, .written) :=
  (windowAccess_wr32_reg32 s .cmd w).trans (congrArg (·, _) (State.guarded_busy _ hbusy))

theorem windowAccess_cmd_idle {s : State} (w : Word32) (hidle : s.busy = false) :
    windowAccess s 0x008 (.wr32 w) = (s.accept w, .written) :=
  (windowAccess_wr32_reg32 s .cmd w).trans (congrArg (·, _) (State.guarded_idle _ hidle))

theorem State.accept_rsakeygen (s : State) :
    s.accept 0x00000004 = { s with cmd := 0x00000004, busy := true, done := false, keyValid := false } := by
  simp [State.accept]

/-- Settles O6: the write is guarded by BUSY, and only RSAKEYGEN's word clears KEY_VALID. -/
theorem commandWriteIsAcceptedOrLost : Obligations.CommandWriteIsAcceptedOrLost := by
  intro s w
  refine ⟨windowAccess_cmd_busy w, fun hidle hw => ?_, fun hidle hw => ?_⟩
  · rw [windowAccess_cmd_idle w hidle, hw, s.accept_rsakeygen]
  · rw [windowAccess_cmd_idle w hidle, s.accept_keeps_keyValid hw]

/-! ## The engine's turn (R402, R404) -/

theorem engineTurn_command {s : State} {i : Instr} (hbusy : s.busy = true) (hcmd : decode s.cmd = .ok i) :
    engineTurn s = exec i s := by
  rw [engineTurn, if_pos hbusy, engineStep, hcmd]

theorem engineTurn_idle {s : State} (hidle : s.busy = false) : engineTurn s = .next s := by
  simp [engineTurn, hidle]

theorem step_engine {s : State} {ts : List Turn} (h : s.turns = .engine :: ts) :
    step s = engineTurn { s with turns := ts } := by
  rw [step, h]

theorem step_exhausted {s : State} (h : s.turns = []) : step s = engineTurn s := by
  rw [step, h]

/-- Settles O7: either way the step is the engine's turn, which BUSY enables. -/
theorem engineTurnRunsTheDecodedCommand : Obligations.EngineTurnRunsTheDecodedCommand := by
  intro s ts i
  exact ⟨fun hbusy hcmd hts => (step_engine hts).trans (engineTurn_command hbusy hcmd),
    fun hbusy hcmd hts => (step_exhausted hts).trans (engineTurn_command hbusy hcmd),
    fun hidle hts => (step_engine hts).trans (engineTurn_idle hidle),
    fun hidle hts => (step_exhausted hts).trans (engineTurn_idle hidle)⟩

/-! ## Completion (R403) -/

/-- Code 6 is no command's: only an illegal word completes with it (60_exceptions.md R700). -/
theorem CmdError.code_le_five {e : CmdError} (he : e ≠ .illegalCommand) : e.code.toNat ≤ 5 := by
  cases e with
  | illegalCommand => exact absurd rfl he
  | emptyInput | invalidKey | invalidNumber | messageTooLarge | noInverseExists => decide

theorem CommandAnswers.errCode_le_five {i : Instr} {s t : State} (h : CommandAnswers s i t) : t.errCode.toNat ≤ 5 := by
  cases h with
  | error _ he | keyError he => exact CmdError.code_le_five he
  | result | key | text | grid => exact Nat.zero_le 5

/-- Settles O9: every next state of a command is a completion, and no command raises IllegalCommand. -/
theorem everyCompletionReportsItsOutcome : Obligations.EveryCompletionReportsItsOutcome := by
  intro i s t h
  have hanswers := exec_answers h
  obtain ⟨hbusy, hdone, herrf, hwerr, -⟩ := hanswers.flags
  exact ⟨hbusy, hdone, herrf, hanswers.errCode_le_five, by rw [State.irq, hanswers.ie, hdone, Bool.and_true],
    hanswers.ie, hwerr⟩

end Sys2Proof.Machine
end

section
/-! PROOFS. When a command completes and when it faults: a fault is a text command's read of a byte with no value
(40_codec_and_command.md R406, R412; 93_implementation_defined.md I1). -/

namespace Sys2Proof.Machine

/-! ## Reads of bytes with no value -/

theorem Memory.readRun_eq_none {m : Memory} {a n : Nat} :
    m.readRun a n = none ↔ ∃ k, k < n ∧ m.read (a + k) = none := by
  induction n generalizing a with
  | zero => simp [Memory.readRun]
  | succ n ih =>
    have hrun : m.readRun a (n + 1) = none ↔ m.read a = none ∨ m.readRun (a + 1) n = none := by
      rw [Memory.readRun]
      cases m.read a <;> cases m.readRun (a + 1) n <;> simp
    rw [hrun, ih, Nat.exists_lt_succ_left]
    simp [Nat.add_right_comm, Nat.add_assoc]

theorem State.bytes_eq_none {s : State} {b : Buf} {n : Nat} :
    s.bytes b n = none ↔ ∃ k, k < n ∧ s.byte b k = none := Memory.readRun_eq_none

theorem State.message_eq_none {s : State} {n : Nat} :
    s.message n = none ↔ ∃ k, k < n ∧ s.byte .inBuf k = none := by
  rw [← State.bytes_eq_none, State.message]
  cases s.bytes .inBuf n <;> simp

theorem State.keyword_eq_none {s : State} {n : Nat} :
    s.keyword n = none ↔ ∃ k, k < n ∧ s.byte .keyBuf k = none := by
  rw [← State.bytes_eq_none, State.keyword]
  cases s.bytes .keyBuf n <;> simp

/-! ## Faults -/

theorem exec_affine {i : Instr} (hi : i = .affenc ∨ i = .affdec) (s : State) :
    ∃ g, exec i s = affineCommand g s := by
  obtain rfl | rfl := hi
  · exact ⟨affineEncode, rfl⟩
  · exact ⟨affineDecode, rfl⟩

theorem exec_column {i : Instr} (hi : i = .colenc ∨ i = .coldec) (s : State) :
    ∃ g, exec i s = columnCommand g s := by
  obtain rfl | rfl := hi
  · exact ⟨transposeEncode, rfl⟩
  · exact ⟨transposeDecode, rfl⟩

theorem affineCommand_eq_fault {g : Int → Int → Letter → Letter} {s : State} {f : Fault} :
    affineCommand g s = .fault f ↔
      f = .unwrittenByte .inBuf ∧ s.inLenBad = false ∧ s.keyA ∈ affineUnits ∧ s.message s.inCount = none := by
  obtain ⟨hlen, he⟩ | ⟨hlen, hkey, he⟩ | ⟨hlen, hkey, hmsg, he⟩ | ⟨hlen, hkey, hmsg, he⟩ |
    ⟨hlen, hkey, P, -, hmsg, he⟩ := affineCommand_cases g s <;> simp [*, eq_comm]

theorem columnCommand_eq_fault {g : List Letter → List Letter → List Letter} {s : State} {f : Fault} :
    columnCommand g s = .fault f ↔
      s.lengthsBad = false ∧
      ((f = .unwrittenByte .keyBuf ∧ s.keyword s.keyCount = none) ∨
       (f = .unwrittenByte .inBuf ∧ (∃ K, s.keyword s.keyCount = some K ∧ 2 ≤ K.length) ∧
         s.message s.inCount = none)) := by
  obtain ⟨hlen, he⟩ | ⟨hlen, hkey, he⟩ |
    ⟨hlen, K, hkey, ⟨hK, he⟩ | ⟨hK, hmsg, he⟩ | ⟨hK, hmsg, he⟩ | ⟨hK, P, -, hmsg, he⟩⟩ :=
    columnCommand_cases g s <;> simp [*, eq_comm]

/-- Settles O14: the message is read last, once the length and the key have passed. -/
theorem affineFaultsOnlyOnUnwrittenBytes : Obligations.AffineFaultsOnlyOnUnwrittenBytes := by
  intro s i f hi
  obtain ⟨g, hexec⟩ := exec_affine hi s
  rw [hexec, affineCommand_eq_fault, State.inLenBad_eq_false, State.message_eq_none, State.keyA, s64_eq_toInt]
  rfl

/-- Settles O15: the key is read once the lengths have passed, and the message once the key has. -/
theorem transpositionFaultsOnlyOnUnwrittenBytes : Obligations.TranspositionFaultsOnlyOnUnwrittenBytes := by
  intro s i f hi
  obtain ⟨g, hexec⟩ := exec_column hi s
  have hkey : (∃ K, s.keyword s.keyCount = some K ∧ 2 ≤ K.length) ↔
      ∃ kb, s.bytes .keyBuf s.keyCount = some kb ∧ 2 ≤ (filterText kb).length := by
    simp [State.keyword_eq_some]
  rw [hexec, columnCommand_eq_fault, State.lengthsBad_eq_false, State.keyword_eq_none, State.message_eq_none, hkey,
    and_assoc]
  rfl

/-! ## Completion (R406) -/

/-- The commands that read no buffer (30_encoding.md R305). -/
def numericCommands : List Instr := [.modexp, .modinv, .isprime, .rsakeygen, .rsaenc, .rsadec]

theorem numericCommand_completes {i : Instr} (hi : i ∈ numericCommands) (s : State) : ∃ t, exec i s = .next t := by
  cases i with
  | modexp | rsaenc | rsadec =>
    simp only [exec, execModexp, execRsaenc, execRsadec]
    split <;> exact ⟨_, rfl⟩
  | modinv =>
    simp only [exec, execModinv]
    split
    · exact ⟨_, rfl⟩
    · split <;> exact ⟨_, rfl⟩
  | isprime => exact ⟨_, rfl⟩
  | rsakeygen =>
    obtain ⟨-, he⟩ | ⟨-, -, -, -, he⟩ | ⟨-, -, -, -, _, _, -, -, he⟩ := execRsakeygen_cases s <;> exact ⟨_, he⟩
  | affenc | affdec | colenc | coldec => simp [numericCommands] at hi

theorem numericCommand_ne_fault {i : Instr} (hi : i ∈ numericCommands) (s : State) (f : Fault) :
    exec i s ≠ .fault f := by
  obtain ⟨t, ht⟩ := numericCommand_completes hi s
  simp [ht]

theorem affineCommand_next_or_fault (g : Int → Int → Letter → Letter) (s : State) :
    (∃ t, affineCommand g s = .next t) ∨ ∃ f, affineCommand g s = .fault f := by
  obtain ⟨-, he⟩ | ⟨-, -, he⟩ | ⟨-, -, -, he⟩ | ⟨-, -, -, he⟩ | ⟨-, -, _, -, -, he⟩ :=
    affineCommand_cases g s <;> simp [he]

theorem columnCommand_next_or_fault (g : List Letter → List Letter → List Letter) (s : State) :
    (∃ t, columnCommand g s = .next t) ∨ ∃ f, columnCommand g s = .fault f := by
  obtain ⟨-, he⟩ | ⟨-, -, he⟩ | ⟨-, _, -, ⟨-, he⟩ | ⟨-, -, he⟩ | ⟨-, -, he⟩ | ⟨-, _, -, -, he⟩⟩ :=
    columnCommand_cases g s <;> simp [he]

theorem exec_next_or_fault (i : Instr) (s : State) : (∃ t, exec i s = .next t) ∨ ∃ f, exec i s = .fault f := by
  cases i with
  | modexp | modinv | isprime | rsakeygen | rsaenc | rsadec =>
    exact .inl (numericCommand_completes (by simp [numericCommands]) s)
  | affenc | affdec => exact affineCommand_next_or_fault _ s
  | colenc | coldec => exact columnCommand_next_or_fault _ s

/-- A command that finds every byte it could read written does not fault (70_reset_and_hazards.md R803). -/
theorem State.TextWritten.no_fault {s : State} (h : s.TextWritten) (i : Instr) (f : Fault) : exec i s ≠ .fault f := by
  obtain ⟨hin, hkey⟩ := h
  intro hf
  cases i with
  | modexp | modinv | isprime | rsakeygen | rsaenc | rsadec =>
    exact numericCommand_ne_fault (by simp [numericCommands]) s f hf
  | affenc | affdec =>
    obtain ⟨-, hlen, -, k, hk, hnone⟩ := (affineFaultsOnlyOnUnwrittenBytes s _ f (by simp)).1 hf
    exact hin k hk (by omega) hnone
  | colenc | coldec =>
    obtain ⟨hinLen, hkeyLen, ⟨-, k, hk, hnone⟩ | ⟨-, -, k, hk, hnone⟩⟩ :=
      (transpositionFaultsOnlyOnUnwrittenBytes s _ f (by simp)).1 hf
    · exact hkey k hk (by omega) hnone
    · exact hin k hk (by omega) hnone

/-- Settles O13: a command completes unless it faults. -/
theorem everyCommandCompletes : Obligations.EveryCommandCompletes := by
  intro i s
  have hdone (h : ∃ t, exec i s = .next t) : ∃ t, exec i s = .next t ∧ t.done = true :=
    h.imp fun _ ht => ⟨ht, (exec_answers ht).done⟩
  refine ⟨fun r hr => ?_, fun hi => hdone (numericCommand_completes hi s), fun hw => hdone ?_⟩
  · obtain ⟨_, h⟩ | ⟨_, h⟩ := exec_next_or_fault i s <;> cases h.symm.trans hr
  · exact (exec_next_or_fault i s).resolve_right fun ⟨f, hf⟩ => hw.no_fault i f hf

end Sys2Proof.Machine
end

section
/-! PROOFS. A command's outcome and outputs rest on its listed inputs only (30_encoding.md R305;
40_codec_and_command.md R405). -/

namespace Sys2Proof.Machine

section

/-! ## Outcomes that are alike -/

/-- The outcomes `o` and `o'` of command `i` have the same fault, or the same ERR.CODE and, after a success, the same
outputs. -/
def OutcomesAlike (i : Instr) (o o' : Host.Outcome State Fault Refusal) : Prop :=
  (∀ t, o = .next t → ∃ t', o' = .next t' ∧ t'.errCode = t.errCode ∧ (t.errCode = 0 → SameOutputs i t t')) ∧
  (∀ f, o = .fault f → o' = .fault f)

variable {i : Instr} {t t' : State}

theorem OutcomesAlike.fault (f : Fault) : OutcomesAlike i (.fault f) (.fault f) := ⟨fun _ h => (by cases h), fun _ => id⟩

theorem outcomeCode_error_ne_zero (e : CmdError) : outcomeCode (some e) ≠ 0 := by cases e <;> decide

theorem OutcomesAlike.error (e : CmdError) :
    OutcomesAlike i (.next (t.complete (some e))) (.next (t'.complete (some e))) := by
  refine ⟨fun v hv => ?_, nofun⟩
  cases hv
  exact ⟨_, rfl, rfl, fun h => absurd h (outcomeCode_error_ne_zero e)⟩

theorem OutcomesAlike.success (h : SameOutputs i (t.complete none) (t'.complete none)) :
    OutcomesAlike i (.next (t.complete none)) (.next (t'.complete none)) := by
  refine ⟨fun v hv => ?_, nofun⟩
  cases hv
  exact ⟨_, rfl, rfl, fun _ => h⟩

theorem OutcomesAlike.ite {c : Prop} [Decidable c] {o₁ o₁' o₂ o₂' : Host.Outcome State Fault Refusal}
    (h₁ : c → OutcomesAlike i o₁ o₁') (h₂ : ¬ c → OutcomesAlike i o₂ o₂') :
    OutcomesAlike i (if c then o₁ else o₂) (if c then o₁' else o₂') := by
  split
  · next hc => exact h₁ hc
  · next hc => exact h₂ hc

/-! ## Texts read and written alike -/

variable {s s' : State}

theorem State.bytes_congr {b : Buf} {n : Nat} (h : ∀ k, k < n → s.byte b k = s'.byte b k) :
    s.bytes b n = s'.bytes b n :=
  Memory.readRun_congr h

theorem State.message_congr {n : Nat} (h : ∀ k, k < n → s.byte .inBuf k = s'.byte .inBuf k) :
    s.message n = s'.message n := by
  rw [State.message, State.message, State.bytes_congr h]

theorem State.keyword_congr {n : Nat} (h : ∀ k, k < n → s.byte .keyBuf k = s'.byte .keyBuf k) :
    s.keyword n = s'.keyword n := by
  rw [State.keyword, State.keyword, State.bytes_congr h]

/-- A byte that two states agree on they agree on after one `putBytes` to both, whether or not it is overwritten. -/
theorem byte_putBytes_of_eq {b b' : Buf} {k : Nat} (bs : List Byte) (h : s.byte b' k = s'.byte b' k) :
    (s.putBytes b bs).byte b' k = (s'.putBytes b bs).byte b' k := by
  simp only [State.byte, State.putBytes, Memory.read_writeRun]
  split
  · rfl
  · exact h

/-- What `putBytes` writes it writes whatever the state was. -/
theorem byte_putBytes_congr {b : Buf} {bs : List Byte} {k : Nat} (hk : k < bs.length) :
    (s.putBytes b bs).byte b k = (s'.putBytes b bs).byte b k := by
  rw [byte_putBytes_self s b hk, byte_putBytes_self s' b hk]

theorem byte_writeOut_congr {T : List Letter} {k : Nat} (hk : k < (BitVec.ofNat 32 T.length).toNat) :
    (s.writeOut T).byte .outBuf k = (s'.writeOut T).byte .outBuf k := by
  rw [BitVec.toNat_ofNat] at hk
  exact byte_putBytes_congr (by simpa using hk.trans_le (Nat.mod_le _ _))

/-! ## The commands -/

theorem exec_alike_of_mem_resultCommands (hi : i ∈ resultCommands) (h : SameInputs i s s') :
    OutcomesAlike i (exec i s) (exec i s') := by
  cases i with
  | modexp | rsaenc | rsadec =>
    obtain ⟨h0, h1, h2⟩ := h
    simp only [exec, execModexp, execRsaenc, execRsadec, State.u0, State.u1, State.u2, h0, h1, h2]
    exact .ite (fun _ => .error _) fun _ => .success rfl
  | modinv =>
    obtain ⟨h0, h1⟩ := h
    simp only [exec, execModinv, State.u0, State.u1, h0, h1]
    refine .ite (fun _ => .error _) fun _ => ?_
    cases modInvExt (u s'.op0) (u s'.op1) with
    | none => exact .error _
    | some r => exact .success rfl
  | isprime =>
    have h0 : s.op0 = s'.op0 := h
    simp only [exec, execIsprime, State.u0, h0]
    exact .success rfl
  | rsakeygen | affenc | affdec | colenc | coldec => simp [resultCommands] at hi

theorem execRsakeygen_alike (h : SameInputs .rsakeygen s s') :
    OutcomesAlike .rsakeygen (execRsakeygen s) (execRsakeygen s') := by
  obtain ⟨h0, h1⟩ := h
  simp only [execRsakeygen, State.u0, State.u1, h0, h1]
  exact .ite (fun _ => .error _) fun _ => .ite (fun _ => .error _) fun _ => .success ⟨rfl, rfl, rfl, rfl, rfl⟩

theorem sameOutputs_text (hi : i = .affenc ∨ i = .affdec) (T : List Letter) :
    SameOutputs i ((s.writeOut T).complete none) ((s'.writeOut T).complete none) := by
  obtain rfl | rfl := hi <;> exact ⟨rfl, fun _ => byte_writeOut_congr⟩

theorem affineCommand_alike (hi : i = .affenc ∨ i = .affdec) (f : Int → Int → Letter → Letter) (h : SameInputs i s s') :
    OutcomesAlike i (affineCommand f s) (affineCommand f s') := by
  obtain ⟨h0, h1, hlen, hin⟩ : SameInputs .affenc s s' := by obtain rfl | rfl := hi <;> exact h
  have ha : s'.keyA = s.keyA := congrArg s64 h0.symm
  have hb : s'.keyB = s.keyB := congrArg s64 h1.symm
  have hcount : s'.inCount = s.inCount := congrArg u hlen.symm
  simp only [affineCommand, State.inLenBad, ha, hb, hcount]
  refine .ite (fun _ => .error _) fun hbad => .ite (fun _ => .error _) fun _ => ?_
  have hle : s.inCount ≤ 1024 := State.inLenBad_eq_false.1 (Bool.eq_false_iff.2 hbad)
  have hmsg : s'.message s.inCount = s.message s.inCount :=
    (State.message_congr fun k hk => hin k hk (hk.trans_le hle)).symm
  rw [hmsg]
  match s.message s.inCount with
  | none => exact .fault _
  | some [] => exact .error _
  | some (_ :: _) => exact .success (sameOutputs_text hi _)

theorem sameOutputs_grid (hi : i = .colenc ∨ i = .coldec) (K T : List Letter) (rows : Nat) :
    SameOutputs i ((((s.writeOut T).putGrid rows K.length).putBytes .rankBuf (rankBytes K)).complete none)
      ((((s'.writeOut T).putGrid rows K.length).putBytes .rankBuf (rankBytes K)).complete none) := by
  have hrank (c : Nat) (hc : c < (BitVec.ofNat 16 K.length).toNat) : c < (rankBytes K).length := by
    rw [BitVec.toNat_ofNat] at hc
    exact rankBytes_length K ▸ hc.trans_le (Nat.mod_le _ _)
  obtain rfl | rfl := hi <;>
    exact ⟨rfl, rfl, rfl, fun _ hk => byte_putBytes_of_eq (rankBytes K) (byte_writeOut_congr hk),
      fun c hc => byte_putBytes_congr (hrank c hc)⟩

theorem columnCommand_alike (hi : i = .colenc ∨ i = .coldec) (f : List Letter → List Letter → List Letter)
    (h : SameInputs i s s') : OutcomesAlike i (columnCommand f s) (columnCommand f s') := by
  obtain ⟨hinLen, hkeyLen, hin, hkey⟩ : SameInputs .colenc s s' := by obtain rfl | rfl := hi <;> exact h
  have hinCount : s'.inCount = s.inCount := congrArg u hinLen.symm
  have hkeyCount : s'.keyCount = s.keyCount := congrArg u hkeyLen.symm
  simp only [columnCommand, State.lengthsBad, State.inLenBad, hinCount, hkeyCount]
  refine .ite (fun _ => .error _) fun hbad => ?_
  obtain ⟨hinLe, hkeyLe⟩ : s.inCount ≤ 1024 ∧ s.keyCount ≤ 64 := State.lengthsBad_eq_false.1 (Bool.eq_false_iff.2 hbad)
  have hkeyword : s'.keyword s.keyCount = s.keyword s.keyCount :=
    (State.keyword_congr fun k hk => hkey k hk (hk.trans_le hkeyLe)).symm
  have hmsg : s'.message s.inCount = s.message s.inCount :=
    (State.message_congr fun k hk => hin k hk (hk.trans_le hinLe)).symm
  rw [hkeyword, hmsg]
  cases s.keyword s.keyCount with
  | none => exact .fault _
  | some K =>
    refine .ite (fun _ => .error _) fun _ => ?_
    match s.message s.inCount with
    | none => exact .fault _
    | some [] => exact .error _
    | some (_ :: _) => exact .success (sameOutputs_grid hi K _ _)

end

/-- Settles O10: each command compares, reads and stores only what its listed inputs give. -/
theorem outcomeDependsOnlyOnListedInputs : Obligations.OutcomeDependsOnlyOnListedInputs := by
  intro i s s' h
  cases i with
  | modexp | modinv | isprime | rsaenc | rsadec => exact exec_alike_of_mem_resultCommands (by simp [resultCommands]) h
  | rsakeygen => exact execRsakeygen_alike h
  | affenc | affdec => exact affineCommand_alike (by simp) _ h
  | colenc | coldec => exact columnCommand_alike (by simp) _ h

end Sys2Proof.Machine
end

section
/-! PROOFS. What the modular commands write (41_modular_arithmetic.md R452 to R457). -/

namespace Sys2Proof.Machine

/-! ## The primitives -/

/-- Settles O18: the calls that `extGcd` allows are enough for the recursion to end. -/
theorem extGcdGivesABezoutPair : Obligations.ExtGcdGivesABezoutPair := fun a b => ⟨extGcd_fst a b, extGcd_bezout a b⟩

/-- With enough rounds, the loop of `ModPow` multiplies a reduced accumulator by the power of the base (R454): a round
keeps `r * b ^ e` modulo `m`. -/
theorem modPowLoop_eq {m fuel r b e : Nat} (hfuel : e ≤ fuel) (hr : r % m = r) :
    modPowLoop m fuel r b e = r * b ^ e % m := by
  induction fuel generalizing r b e with
  | zero => simp [Nat.le_zero.1 hfuel, modPowLoop_zero, hr]
  | succ fuel ih =>
    by_cases he : e = 0
    · simp [he, modPowLoop_zero, hr]
    · have hsquare (c : Nat) : c * (b * b % m) ^ (e / 2) % m = c * b ^ (2 * (e / 2)) % m := by
        rw [Nat.mul_mod, ← Nat.pow_mod, ← Nat.mul_mod, pow_mul, sq]
      rw [modPowLoop_succ _ _ _ _ he]
      split
      · next hodd =>
        have hexp : e = 2 * (e / 2) + 1 := by omega
        rw [ih (by omega) (Nat.mod_mod _ _), hsquare, Nat.mod_mul_mod, mul_assoc, ← pow_succ', ← hexp]
      · have hexp : 2 * (e / 2) = e := by omega
        rw [ih (by omega) hr, hsquare, hexp]

/-- `ModPow` is the power reduced, with `b ^ 0 = 1` reduced as well (R454). -/
theorem modPow_eq (b e m : Nat) : modPow b e m = b ^ e % m := by
  rw [modPow, modPowLoop_eq le_rfl (Nat.mod_mod _ _), Nat.mod_mul_mod, one_mul, ← Nat.pow_mod]

/-- For coprime arguments `ModInvExt` answers an inverse below the modulus (R453). -/
theorem modInvExt_eq_some {a m : Nat} (hm : m ≠ 0) (h : Nat.gcd a m = 1) :
    ∃ r, modInvExt a m = some r ∧ r < m ∧ a * r % m = 1 % m := by
  refine ⟨_, by rw [modInvExt_eq, if_pos h], normMod_lt _ (by omega), ?_⟩
  obtain rfl | hlt : m = 1 ∨ 1 < m := by omega
  · simp [Nat.mod_one]
  · rw [mul_normMod_bezout_mod hlt h, Nat.mod_eq_of_lt hlt]

/-! ## The commands -/

/-- MODEXP, RSAENC and RSADEC past their check write the power (R455; 44_rsa.md R601, R602). -/
theorem State.finish_modPow (s : State) :
    (s.putResult (modPow s.u0 s.u1 s.u2)).finish =
      { s with result := BitVec.ofNat 64 (s.op0.toNat ^ s.op1.toNat % s.op2.toNat) }.afterSuccess := by
  rw [modPow_eq]
  rfl

/-- Settles O19: past the check for a zero modulus, `ModPow` is the power reduced. -/
theorem modexpComputesThePower : Obligations.ModexpComputesThePower := by
  intro s
  refine ⟨fun hzero => if_pos hzero, fun hpos => ?_⟩
  rw [← State.finish_modPow]
  exact if_neg hpos

/-- Settles O20: `ModInvExt` fails exactly where the gcd is not 1. -/
theorem modinvComputesTheInverse : Obligations.ModinvComputesTheInverse := by
  intro s
  refine ⟨fun hzero => if_pos hzero, fun (hpos : s.u1 ≠ 0) (hgcd : Nat.gcd s.u0 s.u1 ≠ 1) => ?_,
    fun (hpos : s.u1 ≠ 0) (hgcd : Nat.gcd s.u0 s.u1 = 1) => ?_⟩
  · rw [exec, execModinv, if_neg hpos, modInvExt_eq, if_neg hgcd]
    rfl
  · obtain ⟨r, hsome, hlt, hinv⟩ := modInvExt_eq_some hpos hgcd
    refine ⟨r, hlt, hinv, ?_⟩
    rw [exec, execModinv, if_neg hpos, hsome]
    rfl

/-- Settles O21: trial division decides primality. -/
theorem isprimeDecidesPrimality : Obligations.IsprimeDecidesPrimality := by
  intro s
  refine ⟨fun hprime => ?_, fun hcomposite => ?_⟩
  · have htest : isPrime s.u0 = true := isPrime_eq_true.2 hprime
    rw [exec, execIsprime, htest]
    rfl
  · have htest : isPrime s.u0 ≠ true := mt isPrime_eq_true.1 hcomposite
    rw [exec, execIsprime, if_neg htest]
    rfl

end Sys2Proof.Machine
end

section
/-! PROOFS. The ranges of the numeric results (41_modular_arithmetic.md R458; 44_rsa.md R600). -/

namespace Sys2Proof.Machine

/-! ## RESULT -/

theorem State.complete_some_errCode_ne_zero (s : State) (e : CmdError) : (s.complete (some e)).errCode ≠ 0 :=
  outcomeCode_some_ne_zero e

/-- MODEXP, RSAENC and RSADEC succeed only with a modulus, and RESULT is then the power. -/
theorem powerCommand_success {i : Instr} {s t : State} (hi : i = .modexp ∨ i = .rsaenc ∨ i = .rsadec)
    (h : exec i s = .next t) (hcode : t.errCode = 0) :
    s.u2 ≠ 0 ∧ t.result = BitVec.ofNat 64 (s.u0 ^ s.u1 % s.u2) := by
  cases i with
  | modexp | rsaenc | rsadec =>
    simp only [exec, execModexp, execRsaenc, execRsadec, State.finish_modPow] at h
    split at h <;> cases h
    · exact absurd hcode (State.complete_some_errCode_ne_zero _ _)
    · exact ⟨by omega, rfl⟩
  | modinv | isprime | rsakeygen | affenc | affdec | colenc | coldec => simp at hi

/-- A word holds a number below another word's value. -/
theorem toNat_ofNat_lt_toNat {v : Nat} {w : Word64} (h : v < w.toNat) : (BitVec.ofNat 64 v).toNat < w.toNat :=
  (BitVec.toNat_ofNat v 64).symm ▸ (Nat.mod_le _ _).trans_lt h

theorem powerCommand_result_lt {i : Instr} {s t : State} (hi : i = .modexp ∨ i = .rsaenc ∨ i = .rsadec)
    (h : exec i s = .next t) (hcode : t.errCode = 0) : t.result.toNat < s.op2.toNat := by
  obtain ⟨hpos, hresult⟩ := powerCommand_success hi h hcode
  rw [hresult]
  exact toNat_ofNat_lt_toNat (Nat.mod_lt _ (Nat.pos_of_ne_zero hpos))

theorem modinv_result_lt {s t : State} (h : exec .modinv s = .next t) (hcode : t.errCode = 0) :
    t.result.toNat < s.op1.toNat := by
  obtain ⟨hzero, hnone, hsome⟩ := modinvComputesTheInverse s
  by_cases hpos : s.op1.toNat = 0
  · cases (hzero hpos).symm.trans h
    simp [State.afterError] at hcode
  · by_cases hgcd : Nat.gcd s.op0.toNat s.op1.toNat = 1
    · obtain ⟨r, hlt, -, hr⟩ := hsome hpos hgcd
      cases hr.symm.trans h
      exact toNat_ofNat_lt_toNat hlt
    · cases (hnone hpos hgcd).symm.trans h
      simp [State.afterError] at hcode

theorem isprime_result_le_one {s t : State} (h : exec .isprime s = .next t) : t.result.toNat ≤ 1 := by
  obtain ⟨hprime, hcomposite⟩ := isprimeDecidesPrimality s
  by_cases hp : Nat.Prime s.op0.toNat
  · cases (hprime hp).symm.trans h
    exact le_rfl
  · cases (hcomposite hp).symm.trans h
    exact Nat.zero_le 1

/-! ## The key tuple -/

/-- Of two distinct primes one is odd, so the totient is even. -/
theorem two_dvd_totient {p q : Nat} (hp : Nat.Prime p) (hq : Nat.Prime q) (hne : p ≠ q) : 2 ∣ (p - 1) * (q - 1) := by
  obtain hp2 | hpodd := hp.eq_two_or_odd
  · obtain hq2 | hqodd := hq.eq_two_or_odd
    · omega
    · exact (show 2 ∣ q - 1 by omega).mul_left _
  · exact (show 2 ∣ p - 1 by omega).mul_right _

/-- So a public exponent is odd, since it is coprime with the totient. -/
theorem GoodKey.odd_exponent {n phi e d : Nat} (h : GoodKey n phi e d) : e % 2 = 1 := by
  obtain ⟨⟨p, q, hp, hq, hne, -, rfl⟩, -, hgcd, -, -, -⟩ := h
  by_contra heven
  have htwo : 2 ∣ Nat.gcd e ((p - 1) * (q - 1)) := Nat.dvd_gcd (by omega) (two_dvd_totient hp hq hne)
  omega

theorem GoodKey.ranges {n phi e d : Nat} (h : GoodKey n phi e d) :
    phi < n ∧ 3 ≤ e ∧ e ≤ phi + 1 ∧ 1 ≤ d ∧ d < phi := by
  have hodd := h.odd_exponent
  obtain ⟨⟨p, q, hp, hq, hne, rfl, rfl⟩, htwo, -, hfirst, hd, hinv⟩ := h
  obtain ⟨hphi, hn⟩ := totient_bounds hp hq hne
  have hlast : e ≤ (p - 1) * (q - 1) + 1 := by
    by_contra hlt
    exact hfirst ((p - 1) * (q - 1) + 1) (by omega) (by omega) (by simp)
  have hpos : d ≠ 0 := by
    rintro rfl
    simp at hinv
  omega

/-- RSAKEYGEN succeeds only with a good key of its two operands, and stores it. -/
theorem rsakeygen_success {s t : State} (h : exec .rsakeygen s = .next t) (hcode : t.errCode = 0) :
    s.u0 * s.u1 < 2 ^ 64 ∧ ∃ e d, GoodKey (s.u0 * s.u1) ((s.u0 - 1) * (s.u1 - 1)) e d ∧
      t = (s.putKey (s.u0 * s.u1) ((s.u0 - 1) * (s.u1 - 1)) e d).validateKey.complete none := by
  obtain ⟨-, he⟩ | ⟨-, -, -, -, he⟩ | ⟨hp, hq, hne, hn, _, _, rfl, rfl, he⟩ := execRsakeygen_cases s <;>
    cases he.symm.trans h
  · exact absurd hcode (State.complete_some_errCode_ne_zero _ _)
  · exact absurd hcode (State.complete_some_errCode_ne_zero _ _)
  · exact ⟨hn, _, _, goodKey_of_primes (isPrime_eq_true.1 hp) (isPrime_eq_true.1 hq) hne, rfl⟩

/-- The KEY registers hold the parts of a good key below 2^64 as they are. -/
theorem State.toNat_putKey (s : State) {n phi e d : Nat} (hn : n < 2 ^ 64) (hkey : GoodKey n phi e d) :
    (s.putKey n phi e d).keyN.toNat = n ∧ (s.putKey n phi e d).keyPhi.toNat = phi ∧
    (s.putKey n phi e d).keyE.toNat = e ∧ (s.putKey n phi e d).keyD.toNat = d := by
  obtain ⟨hphi, he, hd⟩ := hkey.le_modulus
  have hword {v : Nat} (hv : v ≤ n) : (BitVec.ofNat 64 v).toNat = v := by
    rw [BitVec.toNat_ofNat, Nat.mod_eq_of_lt (by omega)]
  exact ⟨hword le_rfl, hword hphi, hword he, hword hd⟩

theorem rsakeygen_ranges {s t : State} (h : exec .rsakeygen s = .next t) (hcode : t.errCode = 0) :
    t.keyN.toNat = s.op0.toNat * s.op1.toNat ∧ t.keyPhi.toNat = (s.op0.toNat - 1) * (s.op1.toNat - 1) ∧
    t.keyPhi.toNat < t.keyN.toNat ∧ 3 ≤ t.keyE.toNat ∧ t.keyE.toNat ≤ t.keyPhi.toNat + 1 ∧
    1 ≤ t.keyD.toNat ∧ t.keyD.toNat < t.keyPhi.toNat := by
  obtain ⟨hn, e, d, hkey, rfl⟩ := rsakeygen_success h hcode
  obtain ⟨hkeyN, hkeyPhi, hkeyE, hkeyD⟩ := s.toNat_putKey hn hkey
  simp only [State.complete_keyN, State.complete_keyPhi, State.complete_keyE, State.complete_keyD,
    State.validateKey_keyN, State.validateKey_keyPhi, State.validateKey_keyE, State.validateKey_keyD,
    hkeyN, hkeyPhi, hkeyE, hkeyD]
  exact ⟨rfl, rfl, hkey.ranges⟩

/-- Settles O22: each command's range follows from what it writes on success. -/
theorem numericResultsAreInRange : Obligations.NumericResultsAreInRange := by
  intro i s t h hcode
  refine ⟨fun hi => powerCommand_result_lt hi h hcode, ?_, ?_, ?_⟩ <;> rintro rfl
  · exact modinv_result_lt h hcode
  · exact isprime_result_le_one h
  · exact rsakeygen_ranges h hcode

end Sys2Proof.Machine
end

section
/-! PROOFS. The affine cipher: the inverse mod 26, what AFFENC and AFFDEC write and which error comes first, and that
the one inverts the other (42_affine.md R500 to R504). -/

namespace Sys2Proof.Machine

/-! ## The inverse mod 26 -/

/-- Settles O31: the scan is run on the twelve units. -/
theorem inverseModTwentySixIsTheTable : Obligations.InverseModTwentySixIsTheTable := by
  unfold Obligations.InverseModTwentySixIsTheTable
  decide

theorem mul_inv26_modEq_one {a : Int} (ha : a ∈ affineUnits) : a * inv26 a ≡ 1 [ZMOD 26] :=
  inverseModTwentySixIsTheTable.2 a ha

theorem inv26_modEq_of_mul_modEq_one {a x : Int} (ha : a ∈ affineUnits) (hx : a * x ≡ 1 [ZMOD 26]) :
    inv26 a ≡ x [ZMOD 26] := calc
  inv26 a = inv26 a * 1 := (mul_one _).symm
  _ ≡ inv26 a * (a * x) [ZMOD 26] := hx.symm.mul_left _
  _ = a * inv26 a * x := by ring
  _ ≡ 1 * x [ZMOD 26] := (mul_inv26_modEq_one ha).mul_right x
  _ = x := one_mul x

/-! ## Letters of integers -/

theorem toLetter_modEq (v : Int) : ((toLetter v).val : Int) ≡ v [ZMOD 26] := by
  rw [toLetter_val, normMod_cast v (by decide)]
  exact Int.mod_modEq v 26

theorem toLetter_congr {v w : Int} (h : v ≡ w [ZMOD 26]) : toLetter v = toLetter w := by
  have hmod : normMod v 26 = normMod w 26 := congrArg Int.toNat h
  rw [toLetter, toLetter, hmod]

theorem normMod_letter (l : Letter) : normMod (l.val : Int) 26 = l.val := (eq_normMod_of_dvd_sub l.isLt (by simp)).symm

theorem toLetter_letter (l : Letter) : toLetter (l.val : Int) = l :=
  Fin.ext ((toLetter_val _).trans (normMod_letter l))

theorem letterByte_eq_asciiOf (l : Letter) : letterByte l = asciiOf l := by
  rw [letterByte, letter2Byte, normMod_letter, asciiOf]

theorem asciiOf_toLetter (v : Int) : asciiOf (toLetter v) = BitVec.ofNat 8 (0x41 + (v % 26).toNat) := by
  rw [asciiOf, toLetter_val]
  rfl

/-- AFFDEC of a Letter is the same with every inverse of `a`. -/
theorem affineDecode_eq {a x : Int} (ha : a ∈ affineUnits) (hx : a * x ≡ 1 [ZMOD 26]) (b : Int) (n : Letter) :
    affineDecode a b n = toLetter (x * ((n.val : Int) - b)) :=
  toLetter_congr ((inv26_modEq_of_mul_modEq_one ha hx).mul_right _)

theorem affineDecode_affineEncode {a : Int} (ha : a ∈ affineUnits) (b : Int) (n : Letter) :
    affineDecode a b (affineEncode a b n) = n := by
  have hmod : inv26 a * (((affineEncode a b n).val : Int) - b) ≡ n.val [ZMOD 26] := calc
    inv26 a * (((affineEncode a b n).val : Int) - b) ≡ inv26 a * (a * n.val + b - b) [ZMOD 26] :=
      ((toLetter_modEq _).sub_right b).mul_left _
    _ = a * inv26 a * n.val := by ring
    _ ≡ 1 * n.val [ZMOD 26] := (mul_inv26_modEq_one ha).mul_right _
    _ = n.val := one_mul _
  exact (toLetter_congr hmod).trans (toLetter_letter n)

/-! ## What both commands answer -/

section

variable {f : Int → Int → Letter → Letter} {s t : State} {bs : List Byte}

theorem State.keyA_eq_toInt : s.keyA = s.op0.toInt := s64_eq_toInt s.op0

theorem State.keyB_eq_toInt : s.keyB = s.op1.toInt := s64_eq_toInt s.op1

theorem affineCommand_tooLong (hlen : 1024 < s.inLen.toNat) : affineCommand f s = .next (s.afterError 3) :=
  if_pos (decide_eq_true hlen)

theorem affineCommand_badKey (hlen : s.inLen.toNat ≤ 1024) (hkey : s.op0.toInt ∉ affineUnits) :
    affineCommand f s = .next (s.afterError 2) := by
  rw [affineCommand, if_neg (by simp [State.inLenBad_eq_false.2 hlen]), State.keyA_eq_toInt, if_pos hkey]
  rfl

/-- With the length in range and the key a unit, the message alone decides. -/
theorem affineCommand_message (hlen : s.inLen.toNat ≤ 1024) (hkey : s.op0.toInt ∈ affineUnits)
    (hbs : s.bytes .inBuf s.inLen.toNat = some bs) :
    affineCommand f s =
      if filterText bs = [] then .next (s.afterError 1)
      else .next ((s.writeOut ((filterText bs).map (f s.op0.toInt s.op1.toInt))).complete none) := by
  have hmsg : s.message s.inCount = some (filterText bs) := State.message_eq_some.2 ⟨bs, hbs, rfl⟩
  rw [affineCommand, if_neg (by simp [State.inLenBad_eq_false.2 hlen]), State.keyA_eq_toInt, State.keyB_eq_toInt,
    if_neg (not_not.2 hkey), hmsg]
  cases filterText bs <;> rfl

theorem affineCommand_noLetters (hlen : s.inLen.toNat ≤ 1024) (hkey : s.op0.toInt ∈ affineUnits)
    (hbs : s.bytes .inBuf s.inLen.toNat = some bs) (hempty : filterText bs = []) :
    affineCommand f s = .next (s.afterError 1) := (affineCommand_message hlen hkey hbs).trans (if_pos hempty)

theorem affineCommand_letters (hlen : s.inLen.toNat ≤ 1024) (hkey : s.op0.toInt ∈ affineUnits)
    (hbs : s.bytes .inBuf s.inLen.toNat = some bs) (hletters : filterText bs ≠ []) :
    affineCommand f s = .next ((s.writeOut ((filterText bs).map (f s.op0.toInt s.op1.toInt))).complete none) :=
  (affineCommand_message hlen hkey hbs).trans (if_neg hletters)

/-- `affineCommand` succeeds only on a message with letters, read whole, under a unit. -/
theorem affineCommand_success (h : affineCommand f s = .next t) (hcode : t.errCode = 0) :
    s.inLen.toNat ≤ 1024 ∧ s.op0.toInt ∈ affineUnits ∧ ∃ bs, s.bytes .inBuf s.inLen.toNat = some bs ∧
      filterText bs ≠ [] ∧ t = (s.writeOut ((filterText bs).map (f s.op0.toInt s.op1.toInt))).complete none := by
  obtain ⟨-, he⟩ | ⟨-, -, he⟩ | ⟨-, -, -, he⟩ | ⟨-, -, -, he⟩ | ⟨hlen, hkey, P, hne, hP, he⟩ := affineCommand_cases f s <;>
    cases he.symm.trans h
  · exact absurd hcode (State.complete_some_errCode_ne_zero _ _)
  · exact absurd hcode (State.complete_some_errCode_ne_zero _ _)
  · exact absurd hcode (State.complete_some_errCode_ne_zero _ _)
  · obtain ⟨bs, hbs, rfl⟩ := State.message_eq_some.1 hP
    rw [State.keyA_eq_toInt] at hkey
    rw [State.keyA_eq_toInt, State.keyB_eq_toInt]
    exact ⟨State.inLenBad_eq_false.1 hlen, hkey, bs, hbs, hne, rfl⟩

/-! ## The output written -/

theorem byte_writeOut (s : State) {T : List Letter} {k : Nat} (hk : k < T.length) :
    (s.writeOut T).byte .outBuf k = some (asciiOf T[k]) := by
  have hbyte := byte_putBytes_self s .outBuf (bs := T.map letterByte) (by simpa using hk)
  rwa [List.getElem_map, letterByte_eq_asciiOf] at hbyte

/-- The success of both commands, spelled out: the output byte by byte, and everything else kept. -/
theorem affineCommand_writes (hlen : s.inLen.toNat ≤ 1024) (hkey : s.op0.toInt ∈ affineUnits)
    (hbs : s.bytes .inBuf s.inLen.toNat = some bs) (hletters : filterText bs ≠ []) :
    ∃ t, affineCommand f s = .next t ∧
      t = { s with mem := t.mem, outLen := BitVec.ofNat 32 (filterText bs).length }.afterSuccess ∧
      (∀ k (h : k < (filterText bs).length),
        t.byte .outBuf k = some (asciiOf (f s.op0.toInt s.op1.toInt (filterText bs)[k]))) ∧
      SameMemoryOutside (fun x => 0x1000 ≤ x ∧ x < 0x1000 + (filterText bs).length) s t := by
  refine ⟨_, affineCommand_letters hlen hkey hbs hletters, ?_, fun k hk => ?_, ?_⟩
  · rw [State.writeOut, List.length_map]
    rfl
  · have hbyte := byte_writeOut s (T := (filterText bs).map (f s.op0.toInt s.op1.toInt)) (by simpa using hk)
    rwa [List.getElem_map] at hbyte
  · have hmem := sameMemoryOutside_putBytes s .outBuf (((filterText bs).map (f s.op0.toInt s.op1.toInt)).map letterByte)
    rwa [List.length_map, List.length_map] at hmem

end

/-! ## AFFENC and AFFDEC -/

/-- Settles O32: the checks of `affineCommand` in their order, and `affineEncode` Letter by Letter. -/
theorem affencEncodesTheMessage : Obligations.AffencEncodesTheMessage := by
  refine fun s => ⟨affineCommand_tooLong, affineCommand_badKey,
    fun hlen hkey bs hbs => ⟨affineCommand_noLetters hlen hkey hbs, fun hletters => ?_⟩⟩
  obtain ⟨t, ht, hframe, hbytes, hmem⟩ := affineCommand_writes (f := affineEncode) hlen hkey hbs hletters
  refine ⟨t, ht, hframe, fun k hk => ?_, hmem⟩
  rw [hbytes k hk, affineEncode, asciiOf_toLetter]

/-- Settles O33: the same checks, and `affineDecode` Letter by Letter, where any inverse serves for `inv26`. -/
theorem affdecDecodesTheMessage : Obligations.AffdecDecodesTheMessage := by
  refine fun s => ⟨affineCommand_tooLong, affineCommand_badKey,
    fun hlen hkey bs hbs => ⟨affineCommand_noLetters hlen hkey hbs, fun hletters => ?_⟩⟩
  obtain ⟨t, ht, hframe, hbytes, hmem⟩ := affineCommand_writes (f := affineDecode) hlen hkey hbs hletters
  refine ⟨t, ht, hframe, fun x hx k hk => ?_, hmem⟩
  rw [hbytes k hk, affineDecode_eq hkey hx, asciiOf_toLetter]

theorem map_affineDecode_map_affineEncode {a : Int} (ha : a ∈ affineUnits) (b : Int) (P : List Letter) :
    (P.map (affineEncode a b)).map (affineDecode a b) = P := by
  simp [Function.comp_def, affineDecode_affineEncode ha]

/-- The bytes `WriteOut` left, read from another state's IN_BUF. -/
theorem bytes_of_writeOut {s s' : State} {T : List Letter}
    (h : ∀ k, k < T.length → s'.byte .inBuf k = (s.writeOut T).byte .outBuf k) :
    s'.bytes .inBuf T.length = some (T.map letterByte) := by
  refine State.bytes_eq_some.2 ⟨List.length_map _, fun k hk => ?_⟩
  rw [h k hk, byte_writeOut s hk, List.getElem?_map, List.getElem?_eq_getElem hk, Option.map_some, letterByte_eq_asciiOf]

/-- Settles O34: the second run reads the Letters the first wrote, and each is decoded to what it was. -/
theorem affineDecodingInvertsEncoding : Obligations.AffineDecodingInvertsEncoding := by
  intro s t s2 h hcode hop0 hop1 hin hbytes
  obtain ⟨hlen, hkey, bs, hbs, hletters, rfl⟩ := affineCommand_success h hcode
  rw [State.complete_outLen] at hin hbytes
  have hshort : (filterText bs).length ≤ 1024 :=
    (filterText_length_le bs).trans ((State.bytes_eq_some.1 hbs).1.trans_le hlen)
  set T := (filterText bs).map (affineEncode s.op0.toInt s.op1.toInt) with hT
  have hTlen : T.length = (filterText bs).length := List.length_map _
  have hout : (s.writeOut T).outLen.toNat = T.length := State.writeOut_outLen_toNat s (by omega)
  have hlen2 : s2.inLen.toNat = T.length := (congrArg BitVec.toNat hin).trans hout
  have hread : s2.bytes .inBuf s2.inLen.toNat = some (T.map letterByte) := hlen2 ▸ bytes_of_writeOut (hout ▸ hbytes)
  have hfilter : filterText (T.map letterByte) = T := filterText_map_letterByte T
  have hdec : affineCommand affineDecode s2 = .next ((s2.writeOut (filterText bs)).complete none) := by
    rw [affineCommand_letters (by omega) (hop0 ▸ hkey) hread (by rw [hfilter]; simpa [hT] using hletters),
      hfilter, hop0, hop1, hT, map_affineDecode_map_affineEncode hkey]
  exact ⟨bs, _, hbs, hdec, rfl, State.writeOut_outLen_toNat s2 (by omega), fun k hk => byte_writeOut s2 hk⟩

end Sys2Proof.Machine
end

section
/-! PROOFS. The order of the columns: it is the sort by (letter value, index), and the rank of a column counts the
columns before it (43_transposition.md R550). -/

namespace Sys2Proof.Machine

/-! ## The pair order of the columns -/

section

variable {K : List Letter} {b c d : Nat}

theorem columnBefore_iff :
    columnBefore K c d = true ↔
      (K.getD c 0).val < (K.getD d 0).val ∨ ((K.getD c 0).val = (K.getD d 0).val ∧ c < d) := by
  simp only [columnBefore, Bool.or_eq_true, Bool.and_eq_true, decide_eq_true_eq]
  rfl

theorem columnBefore_asymm (h : columnBefore K c d = true) : ¬ columnBefore K d c = true := by
  rw [columnBefore_iff] at *
  omega

theorem columnBefore_trans (hbc : columnBefore K b c = true) (hcd : columnBefore K c d = true) :
    columnBefore K b d = true := by
  rw [columnBefore_iff] at *
  omega

theorem columnBefore_of_not (hne : c ≠ d) (h : ¬ columnBefore K c d = true) : columnBefore K d c = true := by
  rw [columnBefore_iff] at *
  omega

/-! ## The insertion sort -/

theorem insertColumn_sorted {ds : List Nat} (hds : ds.Pairwise (columnBefore K · ·)) (hc : c ∉ ds) :
    (insertColumn K c ds).Pairwise (columnBefore K · ·) := by
  induction ds with
  | nil => exact List.pairwise_singleton _ _
  | cons d ds ih =>
    obtain ⟨hd, hds'⟩ := List.pairwise_cons.1 hds
    obtain ⟨hne, hc'⟩ := List.ne_and_not_mem_of_not_mem_cons hc
    rw [insertColumn]
    split
    · next hcd =>
      exact List.pairwise_cons.2 ⟨List.forall_mem_cons.2 ⟨hcd, fun e he => columnBefore_trans hcd (hd e he)⟩, hds⟩
    · next hcd =>
      refine List.pairwise_cons.2 ⟨fun e he => ?_, ih hds' hc'⟩
      obtain rfl | he' := List.mem_cons.1 ((insertColumn_perm K c ds).mem_iff.1 he)
      · exact columnBefore_of_not hne hcd
      · exact hd e he'

/-- Sorting distinct columns by insertion. -/
theorem foldr_insertColumn_sorted {cs : List Nat} (hcs : cs.Nodup) :
    (cs.foldr (insertColumn K) []).Perm cs ∧ (cs.foldr (insertColumn K) []).Pairwise (columnBefore K · ·) := by
  induction cs with
  | nil => exact ⟨.nil, .nil⟩
  | cons c cs ih =>
    obtain ⟨hc, hcs'⟩ := List.nodup_cons.1 hcs
    obtain ⟨hperm, hsorted⟩ := ih hcs'
    exact ⟨(insertColumn_perm K c _).trans (hperm.cons c),
      insertColumn_sorted hsorted fun hmem => hc (hperm.mem_iff.1 hmem)⟩

variable (K) in
theorem columnOrder_sorted : (columnOrder K).Pairwise (columnBefore K · ·) :=
  (foldr_insertColumn_sorted List.nodup_range).2

variable (K) in
theorem columnOrder_nodup : (columnOrder K).Nodup := (columnOrder_perm K).nodup_iff.2 List.nodup_range

variable (K) in
@[simp] theorem columnOrder_length : (columnOrder K).length = K.length :=
  (columnOrder_perm K).length_eq.trans List.length_range

@[simp] theorem mem_columnOrder : c ∈ columnOrder K ↔ c < K.length :=
  (columnOrder_perm K).mem_iff.trans List.mem_range

/-! ## The rank -/

theorem columnRank_getElem {r : Nat} (hr : r < (columnOrder K).length) : columnRank K (columnOrder K)[r] = r :=
  (columnOrder_nodup K).idxOf_getElem r hr

theorem getElem?_columnRank (hc : c < K.length) : (columnOrder K)[columnRank K c]? = some c :=
  List.getElem?_idxOf (mem_columnOrder.2 hc)

theorem columnBefore_of_columnRank_lt (hc : c < K.length) (hd : d < K.length)
    (h : columnRank K c < columnRank K d) : columnBefore K c d = true := by
  have hrel := List.pairwise_iff_getElem.1 (columnOrder_sorted K) _ _
    (List.idxOf_lt_length_iff.2 (mem_columnOrder.2 hc)) (List.idxOf_lt_length_iff.2 (mem_columnOrder.2 hd)) h
  rwa [List.getElem_idxOf, List.getElem_idxOf] at hrel

/-- The order of the ranks is the pair order. -/
theorem columnRank_lt_iff (hc : c < K.length) (hd : d < K.length) :
    columnRank K c < columnRank K d ↔ columnBefore K c d = true := by
  refine ⟨columnBefore_of_columnRank_lt hc hd, fun hcd => ?_⟩
  obtain hlt | heq | hgt := Nat.lt_trichotomy (columnRank K c) (columnRank K d)
  · exact hlt
  · obtain rfl : c = d := (List.idxOf_inj (mem_columnOrder.2 hc)).1 heq
    exact absurd hcd (columnBefore_asymm hcd)
  · exact absurd hcd (columnBefore_asymm (columnBefore_of_columnRank_lt hd hc hgt))

variable (K) in
/-- The columns of the `r` lowest ranks are the first `r` of the order. -/
theorem filter_columnRank_lt_perm (r : Nat) :
    ((List.range K.length).filter (fun d => decide (columnRank K d < r))).Perm ((columnOrder K).take r) := by
  refine (List.perm_ext_iff_of_nodup (List.nodup_range.filter _) (columnOrder_nodup K).take).2 fun d => ?_
  rw [List.mem_filter, List.mem_range, decide_eq_true_eq, ← mem_columnOrder]
  exact ⟨fun ⟨hd, hlt⟩ => (List.mem_take_iff_idxOf_lt hd).2 hlt,
    fun h => ⟨List.mem_of_mem_take h, (List.mem_take_iff_idxOf_lt (List.mem_of_mem_take h)).1 h⟩⟩

theorem length_take_columnRank (hc : c < K.length) :
    ((columnOrder K).take (columnRank K c)).length = columnRank K c := by
  rw [List.length_take, columnOrder_length, min_eq_left (columnRank_lt hc).le]

theorem columnRank_eq_rankByCount (hc : c < K.length) : columnRank K c = rankByCount K c := by
  have hfilter : (List.range K.length).filter (fun d => decide (columnRank K d < columnRank K c)) =
      (List.range K.length).filter (fun d => decide
        ((K.getD d 0).val < (K.getD c 0).val ∨ ((K.getD d 0).val = (K.getD c 0).val ∧ d < c))) :=
    List.filter_congr fun d hd => decide_eq_decide.2
      ((columnRank_lt_iff (List.mem_range.1 hd) hc).trans columnBefore_iff)
  rw [rankByCount, ← hfilter, (filter_columnRank_lt_perm K _).length_eq, length_take_columnRank hc]

end

end Sys2Proof.Machine
end

section
/-! PROOFS. The grid on Letters: what COLENC puts where, the text COLDEC rebuilds, what stripping the fillers leaves,
and that COLDEC inverts COLENC up to the fillers (43_transposition.md R551 to R553). -/

namespace Sys2Proof.Machine

/-! ## Lists row by row -/

section

variable {α β : Type}

/-- Blocks of `n` entries each: entry `j` of block `i` stands at `i * n + j`. -/
theorem getElem?_flatMap_of_length {l : List α} {g : α → List β} {n : Nat} (hg : ∀ x ∈ l, (g x).length = n)
    {i j : Nat} (hj : j < n) : (l.flatMap g)[i * n + j]? = l[i]?.bind fun x => (g x)[j]? := by
  induction l generalizing i with
  | nil => simp
  | cons x l ih =>
    obtain ⟨hx, hl⟩ := List.forall_mem_cons.1 hg
    rw [List.flatMap_cons]
    cases i with
    | zero => rw [Nat.zero_mul, Nat.zero_add, List.getElem?_append_left (hx ▸ hj)]; rfl
    | succ i =>
      have hidx : (i + 1) * n + j = n + (i * n + j) := by rw [Nat.succ_mul]; omega
      rw [hidx, List.getElem?_append_right (by omega), hx, Nat.add_sub_cancel_left, ih hl]
      rfl

/-- `R` rows of `L` places are the places below `R * L`. -/
theorem flatMap_range_filterMap_range (h : Nat → Option β) (R L : Nat) :
    (List.range R).flatMap (fun row => (List.range L).filterMap fun c => h (row * L + c)) =
      (List.range (R * L)).filterMap h := by
  induction R with
  | zero => simp
  | succ R ih =>
    rw [List.range_succ, List.flatMap_append, ih, Nat.succ_mul, List.range_add, List.filterMap_append,
      List.filterMap_map, List.flatMap_singleton]
    rfl

theorem filterMap_range_ite (g : Nat → β) {N M : Nat} (h : N ≤ M) :
    (List.range M).filterMap (fun k => if k < N then some (g k) else none) = (List.range N).map g := by
  obtain ⟨d, rfl⟩ := Nat.exists_eq_add_of_le h
  have hlow : (List.range N).filterMap (fun k => if k < N then some (g k) else none) = (List.range N).map g := by
    rw [← List.filterMap_eq_map]
    exact List.filterMap_congr fun k hk => if_pos (List.mem_range.1 hk)
  rw [List.range_add, List.filterMap_append, hlow, List.append_right_eq_self]
  simp

end

/-! ## The size of the grid -/

theorem le_gridRows_mul (N : Nat) {L : Nat} (hL : 0 < L) : N ≤ gridRows L N * L := by
  have := Nat.lt_div_mul_add (a := N + L - 1) hL
  rw [gridRows]
  omega

/-- The only multiple of `L` from `N` to `N + L - 1`. -/
theorem gridRows_mul_eq {L N R : Nat} (hL : 0 < L) (hge : N ≤ R * L) (hlt : R * L < N + L) : gridRows L N = R :=
  Nat.div_eq_of_lt_le (by omega) (by rw [Nat.succ_mul]; omega)

theorem padMessage_length {L : Nat} (P : List Letter) (hL : 0 < L) :
    (padMessage L P).length = gridRows L P.length * L := by
  have hlen : (padMessage L P).length = P.length + (L - P.length % L) % L := by simp [padMessage]
  have hdvd : L ∣ P.length + (L - P.length % L) % L := by
    have hmod := Nat.mod_lt P.length hL
    refine Nat.dvd_of_mod_eq_zero ?_
    rw [Nat.add_mod_mod, ← Nat.mod_add_mod, Nat.add_sub_cancel' hmod.le, Nat.mod_self]
  obtain ⟨R, hR⟩ := hdvd
  have hpad := Nat.mod_lt (L - P.length % L) hL
  rw [Nat.mul_comm] at hR
  rw [hlen, hR, gridRows_mul_eq (R := R) hL (by omega) (by omega)]

theorem getD_padMessage (L : Nat) (P : List Letter) (k : Nat) : (padMessage L P).getD k filler = P.getD k filler := by
  rw [padMessage]
  by_cases hk : k < P.length
  · rw [List.getD_append _ _ _ _ hk]
  · rw [List.getD_append_right _ _ _ _ (by omega), List.getD_eq_default P _ (by omega), List.getD_eq_getElem?_getD,
      List.getElem?_replicate]
    split <;> rfl

/-! ## COLENC -/

section

variable {K : List Letter}

theorem transposeEncode_eq (P : List Letter) (hK : 0 < K.length) :
    transposeEncode K P = (columnOrder K).flatMap fun c =>
      (List.range (gridRows K.length P.length)).map fun row => P.getD (row * K.length + c) filler := by
  simp only [transposeEncode, padMessage_length P hK, Nat.mul_div_cancel _ hK, getD_padMessage]

theorem transposeEncode_length (P : List Letter) (hK : 0 < K.length) :
    (transposeEncode K P).length = gridRows K.length P.length * K.length := by
  simp [transposeEncode_eq P hK, List.length_flatMap, Nat.mul_comm]

theorem transposeEncode_ne_nil {P : List Letter} (hP : P ≠ []) (hK : 0 < K.length) : transposeEncode K P ≠ [] := by
  refine List.ne_nil_of_length_pos ?_
  rw [transposeEncode_length P hK]
  exact (List.length_pos_iff.2 hP).trans_le (le_gridRows_mul _ hK)

/-- The Letter of row `row` and column `c` of the grid is output at rank(c) · R + row (43_transposition.md R551). -/
theorem transposeEncode_getElem? (P : List Letter) {row c : Nat} (hrow : row < gridRows K.length P.length)
    (hc : c < K.length) :
    (transposeEncode K P)[columnRank K c * gridRows K.length P.length + row]? =
      some (P.getD (row * K.length + c) filler) := by
  rw [transposeEncode_eq P (by omega), getElem?_flatMap_of_length (by simp) hrow, getElem?_columnRank hc]
  simp [hrow]

/-! ## COLDEC: the columns cut from the ciphertext -/

/-- A column of the order is cut after the columns before it. -/
theorem columnOf_cutColumns (len : Nat → Nat) {order : List Nat} {c : Nat} (hc : c ∈ order) (C : List Letter) :
    columnOf (cutColumns len order C) c = (C.drop ((order.take (order.idxOf c)).map len).sum).take (len c) := by
  induction order generalizing C with
  | nil => simp at hc
  | cons d ds ih =>
    by_cases hd : d = c
    · subst hd
      simp [cutColumns, columnOf]
    · have hcds : c ∈ ds := (List.mem_cons.1 hc).resolve_left (Ne.symm hd)
      have hskip : columnOf (cutColumns len (d :: ds) C) c = columnOf (cutColumns len ds (C.drop (len d))) c := by
        simp [cutColumns, columnOf, hd]
      rw [hskip, ih hcds, List.idxOf_cons_ne _ hd, List.take_succ_cons, List.map_cons, List.sum_cons, List.drop_drop]

/-- A column starts where the columns before it in the order end (43_transposition.md R552). -/
theorem columnStart_eq (N : Nat) {c : Nat} (hc : c < K.length) :
    columnStart K N c = (((columnOrder K).take (columnRank K c)).map (columnLength K.length N)).sum := by
  have hfilter : (List.range K.length).filter (fun d => decide (rankByCount K d < rankByCount K c)) =
      (List.range K.length).filter (fun d => decide (columnRank K d < columnRank K c)) :=
    List.filter_congr fun d hd => by
      rw [columnRank_eq_rankByCount (List.mem_range.1 hd), columnRank_eq_rankByCount hc]
  rw [columnStart, hfilter]
  exact ((filter_columnRank_lt_perm K _).map _).sum_eq

theorem sum_columnLength_range (L N n : Nat) :
    ((List.range n).map (columnLength L N)).sum = n * (N / L) + min n (N % L) := by
  induction n with
  | zero => simp
  | succ n ih =>
    rw [List.range_succ, List.map_append, List.sum_append, ih, List.map_singleton, List.sum_singleton, columnLength,
      Nat.succ_mul]
    split <;> omega

/-- The columns use up the ciphertext. -/
theorem sum_columnLength_columnOrder (N : Nat) (hK : 0 < K.length) :
    ((columnOrder K).map (columnLength K.length N)).sum = N := by
  rw [((columnOrder_perm K).map _).sum_eq, sum_columnLength_range, min_eq_right (Nat.mod_lt N hK).le,
    Nat.div_add_mod]

theorem columnStart_add_columnLength_le (N : Nat) {c : Nat} (hc : c < K.length) :
    columnStart K N c + columnLength K.length N c ≤ N := by
  have hr : columnRank K c < (columnOrder K).length := by rw [columnOrder_length]; exact columnRank_lt hc
  have hcol : (columnOrder K)[columnRank K c] = c := List.getElem_idxOf _
  have hsum := sum_columnLength_columnOrder (K := K) N (by omega)
  rw [← List.take_append_drop (columnRank K c) (columnOrder K), List.drop_eq_getElem_cons hr, hcol, List.map_append,
    List.map_cons, List.sum_append, List.sum_cons, ← columnStart_eq N hc] at hsum
  omega

/-- The places of the grid that hold a Letter of the ciphertext: row by row, the first `N`. -/
theorem lt_columnLength_iff {L c : Nat} (N row : Nat) (hc : c < L) : row < columnLength L N c ↔ row * L + c < N := by
  have hN := Nat.div_add_mod N L
  have hmod := Nat.mod_lt N (show 0 < L by omega)
  rw [columnLength]
  obtain hlt | heq | hgt := Nat.lt_trichotomy row (N / L)
  · have := Nat.mul_le_mul_left L (Nat.succ_le_of_lt hlt)
    rw [Nat.mul_succ, Nat.mul_comm L row] at this
    split <;> omega
  · subst heq
    rw [Nat.mul_comm _ L]
    split <;> omega
  · have := Nat.mul_le_mul_left L (Nat.succ_le_of_lt hgt)
    rw [Nat.mul_succ, Nat.mul_comm L row] at this
    split <;> omega

/-- `col[c]` of a ciphertext, place by place (43_transposition.md R552). -/
theorem columnOf_getElem? (C : List Letter) {row c : Nat} (hc : c < K.length)
    (hrow : row < columnLength K.length C.length c) :
    (columnOf (cutColumns (columnLength K.length C.length) (columnOrder K) C) c)[row]? =
      some (C.getD (columnStart K C.length c + row) 0) := by
  have hend := columnStart_add_columnLength_le C.length hc
  rw [columnOf_cutColumns _ (mem_columnOrder.2 hc), List.getElem?_take_of_lt hrow, List.getElem?_drop,
    show (columnOrder K).idxOf c = columnRank K c from rfl, ← columnStart_eq C.length hc,
    List.getElem?_eq_getElem (by omega), List.getD_eq_getElem]

/-! ## COLDEC: the text rebuilt -/

/-- The Letter of the rebuilt text at `k`, that is in row k / L and column k mod L (43_transposition.md R552). -/
def rebuiltLetter (K C : List Letter) (k : Nat) : Letter :=
  C.getD (columnStart K C.length (k % K.length) + k / K.length) 0

theorem rebuiltLetter_row_column (C : List Letter) (row : Nat) {c : Nat} (hc : c < K.length) :
    rebuiltLetter K C (row * K.length + c) = C.getD (columnStart K C.length c + row) 0 := by
  rw [rebuiltLetter, Nat.mul_add_mod_of_lt hc, Nat.mul_comm, Nat.mul_add_div (by omega), Nat.div_eq_of_lt hc,
    Nat.add_zero]

theorem rebuildRows_eq (C : List Letter) (hK : 0 < K.length) :
    rebuildRows K C = (List.range C.length).map (rebuiltLetter K C) := by
  have hrow : ∀ row, (List.range K.length).filterMap (fun c =>
      if row < columnLength K.length C.length c
        then (columnOf (cutColumns (columnLength K.length C.length) (columnOrder K) C) c)[row]? else none) =
      (List.range K.length).filterMap (fun c =>
        if row * K.length + c < C.length then some (rebuiltLetter K C (row * K.length + c)) else none) :=
    fun row => List.filterMap_congr fun c hc => by
      rw [List.mem_range] at hc
      simp only [← lt_columnLength_iff C.length row hc, rebuiltLetter_row_column C row hc]
      split
      · next hlt => exact columnOf_getElem? C hc hlt
      · rfl
  calc rebuildRows K C
    _ = (List.range (gridRows K.length C.length)).flatMap fun row => (List.range K.length).filterMap fun c =>
          if row * K.length + c < C.length then some (rebuiltLetter K C (row * K.length + c)) else none := by
      simp only [rebuildRows, hrow]
    _ = (List.range (gridRows K.length C.length * K.length)).filterMap fun k =>
          if k < C.length then some (rebuiltLetter K C k) else none :=
      flatMap_range_filterMap_range (fun k => if k < C.length then some (rebuiltLetter K C k) else none) _ _
    _ = (List.range C.length).map (rebuiltLetter K C) := filterMap_range_ite _ (le_gridRows_mul _ hK)

theorem rebuildRows_length (C : List Letter) (hK : 0 < K.length) : (rebuildRows K C).length = C.length := by
  rw [rebuildRows_eq C hK, List.length_map, List.length_range]

theorem rebuildRows_getElem (C : List Letter) (hK : 0 < K.length) {k : Nat} (hk : k < (rebuildRows K C).length) :
    (rebuildRows K C)[k] = rebuiltLetter K C k := by
  simp only [rebuildRows_eq C hK, List.getElem_map, List.getElem_range]

theorem rebuildRows_getD (C : List Letter) {row c : Nat} (hc : c < K.length) (hN : row * K.length + c < C.length) :
    (rebuildRows K C).getD (row * K.length + c) 0 = C.getD (columnStart K C.length c + row) 0 := by
  have hK : 0 < K.length := by omega
  rw [List.getD_eq_getElem _ _ (by rwa [rebuildRows_length C hK]), rebuildRows_getElem C hK,
    rebuiltLetter_row_column C row hc]

/-! ## The fillers stripped -/

theorem stripFiller_prefix (T : List Letter) : stripFiller T <+: T := List.rdropWhile_prefix _ T

theorem stripFiller_eq_take (T : List Letter) : stripFiller T = T.take (stripFiller T).length :=
  List.prefix_iff_eq_take.1 (stripFiller_prefix T)

theorem stripFiller_length_le (T : List Letter) : (stripFiller T).length ≤ T.length := (stripFiller_prefix T).length_le

theorem stripFiller_getElem {T : List Letter} {j : Nat} (hj : j < (stripFiller T).length) :
    (stripFiller T)[j] = T.getD j 0 := by
  rw [(stripFiller_prefix T).getElem hj, List.getD_eq_getElem]

theorem stripFiller_append_fillers (T : List Letter) (n : Nat) :
    stripFiller (T ++ List.replicate n filler) = stripFiller T := by
  rw [stripFiller, List.reverse_append, List.dropWhile_append_of_pos (by simp)]
  rfl

theorem exists_stripped_fillers (T : List Letter) : ∃ F, stripFiller T ++ F = T ∧ ∀ l ∈ F, l = filler :=
  ⟨T.rtakeWhile (· == filler), List.rdropWhile_append_rtakeWhile,
    fun _ hl => eq_of_beq (List.mem_rtakeWhile_imp (p := (· == filler)) hl)⟩

theorem stripFiller_getLast_ne {T : List Letter} (h : stripFiller T ≠ []) : (stripFiller T).getLast h ≠ filler :=
  fun heq => List.rdropWhile_last_not (· == filler) T h (beq_iff_eq.2 heq)

/-- Of `T`, stripping keeps up to the last Letter that is no filler (92_eei_decisions.md D19). -/
theorem stripsTo_stripFiller (T : List Letter) : StripsTo T (stripFiller T).length := by
  refine ⟨stripFiller_length_le T, fun j hge hlt => ?_, fun hpos => ?_⟩
  · obtain ⟨F, hF, hfillers⟩ := exists_stripped_fillers T
    have hsum : (stripFiller T).length + F.length = T.length := by rw [← List.length_append, hF]
    have htail : T.getD j 0 = F[j - (stripFiller T).length] := by
      rw [← List.getD_eq_getElem F 0, ← List.getD_append_right _ _ _ _ hge, hF]
    exact htail.trans (hfillers _ (List.getElem_mem _))
  · have hne : stripFiller T ≠ [] := List.length_pos_iff.1 hpos
    rw [← stripFiller_getElem (Nat.sub_one_lt_of_lt hpos), ← List.getLast_eq_getElem hne]
    exact stripFiller_getLast_ne hne

/-! ## COLDEC of COLENC -/

/-- The columns of a full grid all have its height. -/
theorem columnStart_full {R c : Nat} (hc : c < K.length) : columnStart K (R * K.length) c = columnRank K c * R := by
  have hlen : columnLength K.length (R * K.length) = fun _ => R := by
    funext d
    rw [columnLength, Nat.mul_div_cancel _ (by omega), Nat.mul_mod_left, if_neg (by omega), Nat.add_zero]
  rw [columnStart_eq _ hc, hlen, List.map_const', List.sum_replicate, length_take_columnRank hc, smul_eq_mul]

/-- COLDEC rebuilds the padded message (43_transposition.md R553). -/
theorem rebuildRows_transposeEncode (P : List Letter) (hK : 0 < K.length) :
    rebuildRows K (transposeEncode K P) = padMessage K.length P := by
  have hlen := transposeEncode_length P hK
  refine List.ext_getElem (by rw [rebuildRows_length _ hK, hlen, padMessage_length P hK]) fun k hk hk' => ?_
  have hc := Nat.mod_lt k hK
  have hrow : k / K.length < gridRows K.length P.length :=
    Nat.div_lt_of_lt_mul (by rwa [padMessage_length P hK, Nat.mul_comm] at hk')
  have hletter := transposeEncode_getElem? P hrow hc
  rw [← columnStart_full hc, ← hlen, Nat.div_add_mod'] at hletter
  rw [← List.getD_eq_getElem (padMessage K.length P) filler, getD_padMessage]
  rw [rebuildRows_getElem _ hK, rebuiltLetter, List.getD_eq_getElem?_getD, hletter, Option.getD_some]

theorem transposeDecode_transposeEncode (P : List Letter) (hK : 0 < K.length) :
    transposeDecode K (transposeEncode K P) = stripFiller P := by
  rw [transposeDecode, rebuildRows_transposeEncode P hK, padMessage, stripFiller_append_fillers]

end

end Sys2Proof.Machine
end

section
/-! PROOFS. COLENC and COLDEC as commands: the checks in their order, what a success writes, and the four statements of
the family (43_transposition.md R550 to R553; 40_codec_and_command.md R412, R413). -/

namespace Sys2Proof.Machine

section

variable {f : List Letter → List Letter → List Letter} {s t : State} {kb bs : List Byte}

/-! ## The output written -/

/-- What a successful COLENC or COLDEC stores: the output, GRID and RANK_BUF (43_transposition.md R551, R552). -/
def State.writeGrid (s : State) (K T : List Letter) (rows : Nat) : State :=
  ((s.writeOut T).putGrid rows K.length).putBytes .rankBuf (rankBytes K)

@[simp] theorem State.complete_byte (s : State) (o : Option CmdError) (b : Buf) (k : Nat) :
    (s.complete o).byte b k = s.byte b k := rfl

variable {K T : List Letter}

/-- The registers after a success, spelled out. -/
theorem State.complete_writeGrid (s : State) (K T : List Letter) (rows : Nat) :
    (s.writeGrid K T rows).complete none =
      { s with
        mem := (s.writeGrid K T rows).mem, outLen := BitVec.ofNat 32 T.length, nrows := BitVec.ofNat 16 rows
        ncols := BitVec.ofNat 16 K.length }.afterSuccess := by
  simp only [State.complete, State.writeGrid, State.putBytes, State.putGrid, State.writeOut]
  rfl

@[simp] theorem State.writeGrid_outLen (s : State) (rows : Nat) :
    (s.writeGrid K T rows).outLen = (s.writeOut T).outLen := rfl

theorem byte_writeGrid_outBuf (s : State) (rows : Nat) (hK : K.length ≤ 64) (hT : T.length ≤ 1087) {k : Nat}
    (hk : k < T.length) : (s.writeGrid K T rows).byte .outBuf k = (s.writeOut T).byte .outBuf k :=
  byte_putBytes_other ((s.writeOut T).putGrid rows K.length) (by decide) (rankBytes_fit_rankBuf hK)
    (lt_of_lt_of_le (by rwa [List.length_map]) (letters_fit_outBuf hT))

theorem byte_writeGrid_rankBuf (s : State) (rows : Nat) {c : Nat} (hc : c < K.length) :
    (s.writeGrid K T rows).byte .rankBuf c = some (BitVec.ofNat 8 (rankByCount K c)) := by
  have hbyte := byte_putBytes_self ((s.writeOut T).putGrid rows K.length) .rankBuf (i := c) (bs := rankBytes K)
    (by rwa [rankBytes_length])
  rw [State.writeGrid, hbyte]
  simp [rankBytes, columnRank_eq_rankByCount hc]

theorem sameMemoryOutside_writeGrid (s : State) (K T : List Letter) (rows : Nat) :
    SameMemoryOutside (fun x => (0x1000 ≤ x ∧ x < 0x1000 + T.length) ∨ (0x440 ≤ x ∧ x < 0x440 + K.length)) s
      (s.writeGrid K T rows) := by
  intro x hx
  obtain ⟨hout, hrank⟩ := not_or.1 hx
  rw [← rankBytes_length] at hrank
  rw [← List.length_map (as := T) letterByte] at hout
  exact (sameMemoryOutside_putBytes ((s.writeOut T).putGrid rows K.length) .rankBuf _ x hrank).trans
    (sameMemoryOutside_putBytes s .outBuf _ x hout)

/-! ## What both commands answer -/

theorem columnCommand_tooLong (hlen : 1024 < s.inLen.toNat ∨ 64 < s.keyLen.toNat) :
    columnCommand f s = .next (s.afterError 3) := by
  have hbad : s.lengthsBad = true := by
    rw [← Bool.not_eq_false, State.lengthsBad_eq_false]
    exact not_and_or.2 (hlen.imp Nat.not_le_of_lt Nat.not_le_of_lt)
  exact if_pos hbad

theorem columnCommand_shortKey (hin : s.inLen.toNat ≤ 1024) (hkey : s.keyLen.toNat ≤ 64)
    (hkb : s.bytes .keyBuf s.keyLen.toNat = some kb) (hshort : (filterText kb).length < 2) :
    columnCommand f s = .next (s.afterError 2) := by
  have hkw : s.keyword s.keyCount = some (filterText kb) := State.keyword_eq_some.2 ⟨kb, hkb, rfl⟩
  rw [columnCommand, if_neg (by simp [State.lengthsBad_eq_false.2 ⟨hin, hkey⟩]), hkw]
  exact if_pos hshort

/-- With the lengths in range and the key long enough, the message alone decides. -/
theorem columnCommand_message (hin : s.inLen.toNat ≤ 1024) (hkey : s.keyLen.toNat ≤ 64)
    (hkb : s.bytes .keyBuf s.keyLen.toNat = some kb) (hK : 2 ≤ (filterText kb).length)
    (hbs : s.bytes .inBuf s.inLen.toNat = some bs) :
    columnCommand f s =
      if filterText bs = [] then .next (s.afterError 1)
      else .next ((s.writeGrid (filterText kb) (f (filterText kb) (filterText bs))
        (gridRows (filterText kb).length (filterText bs).length)).complete none) := by
  have hkw : s.keyword s.keyCount = some (filterText kb) := State.keyword_eq_some.2 ⟨kb, hkb, rfl⟩
  have hmsg : s.message s.inCount = some (filterText bs) := State.message_eq_some.2 ⟨bs, hbs, rfl⟩
  rw [columnCommand, if_neg (by simp [State.lengthsBad_eq_false.2 ⟨hin, hkey⟩]), hkw, hmsg]
  refine (if_neg (Nat.not_lt.2 hK)).trans ?_
  cases filterText bs <;> rfl

theorem columnCommand_noLetters (hin : s.inLen.toNat ≤ 1024) (hkey : s.keyLen.toNat ≤ 64)
    (hkb : s.bytes .keyBuf s.keyLen.toNat = some kb) (hK : 2 ≤ (filterText kb).length)
    (hbs : s.bytes .inBuf s.inLen.toNat = some bs) (hempty : filterText bs = []) :
    columnCommand f s = .next (s.afterError 1) := (columnCommand_message hin hkey hkb hK hbs).trans (if_pos hempty)

theorem columnCommand_letters (hin : s.inLen.toNat ≤ 1024) (hkey : s.keyLen.toNat ≤ 64)
    (hkb : s.bytes .keyBuf s.keyLen.toNat = some kb) (hK : 2 ≤ (filterText kb).length)
    (hbs : s.bytes .inBuf s.inLen.toNat = some bs) (hletters : filterText bs ≠ []) :
    columnCommand f s = .next ((s.writeGrid (filterText kb) (f (filterText kb) (filterText bs))
      (gridRows (filterText kb).length (filterText bs).length)).complete none) :=
  (columnCommand_message hin hkey hkb hK hbs).trans (if_neg hletters)

/-- `columnCommand` succeeds only on a message with letters and a keyword of at least two, both read whole. -/
theorem columnCommand_success (h : columnCommand f s = .next t) (hcode : t.errCode = 0) :
    s.inLen.toNat ≤ 1024 ∧ s.keyLen.toNat ≤ 64 ∧ ∃ kb bs, s.bytes .keyBuf s.keyLen.toNat = some kb ∧
      2 ≤ (filterText kb).length ∧ s.bytes .inBuf s.inLen.toNat = some bs ∧ filterText bs ≠ [] ∧
      t = (s.writeGrid (filterText kb) (f (filterText kb) (filterText bs))
        (gridRows (filterText kb).length (filterText bs).length)).complete none := by
  obtain ⟨-, he⟩ | ⟨-, -, he⟩ | ⟨hlen, K, hkw, ⟨-, he⟩ | ⟨-, -, he⟩ | ⟨-, -, he⟩ | ⟨hK2, P, hne, hmsg, he⟩⟩ :=
    columnCommand_cases f s <;> cases he.symm.trans h
  · exact absurd hcode (State.complete_some_errCode_ne_zero _ _)
  · exact absurd hcode (State.complete_some_errCode_ne_zero _ _)
  · exact absurd hcode (State.complete_some_errCode_ne_zero _ _)
  · obtain ⟨hin, hkey⟩ := State.lengthsBad_eq_false.1 hlen
    obtain ⟨kb, hkb, rfl⟩ := State.keyword_eq_some.1 hkw
    obtain ⟨bs, hbs, rfl⟩ := State.message_eq_some.1 hmsg
    exact ⟨hin, hkey, kb, bs, hkb, hK2, hbs, hne, rfl⟩

theorem filterText_bytes_length_le {b : Buf} {n : Nat} (h : s.bytes b n = some bs) : (filterText bs).length ≤ n :=
  (filterText_length_le bs).trans_eq (State.bytes_eq_some.1 h).1

/-- The success of both commands, spelled out: the output byte by byte, the ranks, and everything else kept. -/
theorem columnCommand_writes
    (hf : ∀ {K : List Letter} (P : List Letter), 0 < K.length → (f K P).length < P.length + K.length)
    (hin : s.inLen.toNat ≤ 1024) (hkey : s.keyLen.toNat ≤ 64)
    (hkb : s.bytes .keyBuf s.keyLen.toNat = some kb) (hK : 2 ≤ (filterText kb).length)
    (hbs : s.bytes .inBuf s.inLen.toNat = some bs) (hletters : filterText bs ≠ [])
    (hT : f (filterText kb) (filterText bs) = T) :
    ∃ t, columnCommand f s = .next t ∧
      t = { s with
            mem := t.mem, outLen := BitVec.ofNat 32 T.length
            nrows := BitVec.ofNat 16 (gridRows (filterText kb).length (filterText bs).length)
            ncols := BitVec.ofNat 16 (filterText kb).length }.afterSuccess ∧
      (∀ k (h : k < T.length), t.byte .outBuf k = some (asciiOf T[k])) ∧
      (∀ c, c < (filterText kb).length → t.byte .rankBuf c = some (BitVec.ofNat 8 (rankByCount (filterText kb) c))) ∧
      SameMemoryOutside
        (fun x => (0x1000 ≤ x ∧ x < 0x1000 + T.length) ∨ (0x440 ≤ x ∧ x < 0x440 + (filterText kb).length)) s t := by
  have hTlen := hf (filterText bs) (show 0 < (filterText kb).length by omega)
  have hKlen := filterText_bytes_length_le hkb
  have hPlen := filterText_bytes_length_le hbs
  refine ⟨_, columnCommand_letters hin hkey hkb hK hbs hletters, ?_⟩
  rw [hT] at hTlen ⊢
  simp only [State.complete_byte]
  refine ⟨State.complete_writeGrid s _ T _, fun k hk => ?_, fun c hc => byte_writeGrid_rankBuf s _ hc,
    sameMemoryOutside_writeGrid s _ T _⟩
  rw [byte_writeGrid_outBuf s _ (by omega) (by omega) hk, byte_writeOut s hk]

end

/-! ## The statements of the family -/

/-- Settles O36: insertion sorts the columns, and of the checks only that of the lengths precedes the key's. -/
theorem columnOrderIsTheStableSort : Obligations.ColumnOrderIsTheStableSort := by
  refine ⟨fun K => ⟨columnOrder_perm K, (columnOrder_sorted K).imp columnBefore_iff.1,
    fun r hr => columnRank_getElem hr, fun c hc => ⟨columnRank_eq_rankByCount hc, columnRank_lt hc⟩⟩,
    fun i s kb hi hin hkey hkb hshort => ?_⟩
  obtain ⟨f, hexec⟩ := exec_column hi s
  rw [hexec, columnCommand_shortKey hin hkey hkb hshort]

/-- Settles O37: the checks of `columnCommand` in their order, and `transposeEncode` place by place. -/
theorem colencTransposesTheGrid : Obligations.ColencTransposesTheGrid := by
  refine fun s => ⟨columnCommand_tooLong, ?_⟩
  rintro hin hkey kb _ hkb rfl
  refine ⟨columnCommand_shortKey hin hkey hkb, ?_⟩
  rintro hK bs _ hbs rfl
  refine ⟨columnCommand_noLetters hin hkey hkb hK hbs, ?_⟩
  rintro hletters _ R rfl hR
  obtain ⟨t, ht, hframe, hout, hranks, hmem⟩ :=
    columnCommand_writes transposeEncode_length_lt hin hkey hkb hK hbs hletters rfl
  rw [transposeEncode_length _ (by omega)] at hframe hmem
  rw [show gridRows _ _ = R from hR.symm] at hframe hmem
  refine ⟨t, ht, hframe, fun row c hrow hc => ?_, hranks, hmem⟩
  obtain ⟨hk, hletter⟩ := List.getElem?_eq_some_iff.1 (transposeEncode_getElem? (filterText bs) (hR ▸ hrow) hc)
  have hbyte := hout _ hk
  rw [hletter, columnRank_eq_rankByCount hc, show gridRows _ _ = R from hR.symm] at hbyte
  exact hbyte

/-- Settles O38: the same checks, and `T` is the text that `rebuildRows` gives before the fillers are stripped. -/
theorem coldecRebuildsTheRows : Obligations.ColdecRebuildsTheRows := by
  refine fun s => ⟨columnCommand_tooLong, ?_⟩
  rintro hin hkey kb _ hkb rfl
  refine ⟨columnCommand_shortKey hin hkey hkb, ?_⟩
  rintro hK bs _ hbs rfl
  refine ⟨columnCommand_noLetters hin hkey hkb hK hbs, ?_⟩
  rintro hletters _ _ _ rfl rfl rfl
  obtain ⟨t, ht, hframe, hout, hranks, hmem⟩ :=
    columnCommand_writes transposeDecode_length_lt hin hkey hkb hK hbs hletters rfl
  exact ⟨t, rebuildRows (filterText kb) (filterText bs), _, ht, rebuildRows_length _ (by omega),
    fun row c hc hN => rebuildRows_getD _ hc hN, stripsTo_stripFiller _, hframe,
    fun j hj => (hout j hj).trans (congrArg (some ∘ asciiOf) (stripFiller_getElem hj)), hranks, hmem⟩

/-- COLDEC of a COLENC output in IN_BUF, under the same keyword (43_transposition.md R553). -/
theorem coldec_of_encoded {s : State} {kb : List Byte} {P : List Letter} (hin : s.inLen.toNat ≤ 1024)
    (hkey : s.keyLen.toNat ≤ 64) (hkb : s.bytes .keyBuf s.keyLen.toNat = some kb) (hK : 2 ≤ (filterText kb).length)
    (hP : P ≠ [])
    (hread : s.bytes .inBuf s.inLen.toNat = some ((transposeEncode (filterText kb) P).map letterByte)) :
    ∃ rows, exec .coldec s = .next ((s.writeGrid (filterText kb) (stripFiller P) rows).complete none) := by
  have hne := transposeEncode_ne_nil hP (show 0 < (filterText kb).length by omega)
  have hdec := columnCommand_letters (f := transposeDecode) hin hkey hkb hK hread (by rwa [filterText_map_letterByte])
  rw [filterText_map_letterByte, transposeDecode_transposeEncode P (by omega)] at hdec
  exact ⟨_, hdec⟩

/-- Settles O39: COLDEC rebuilds the padded message, whose fillers are stripped with the message's own. -/
theorem transpositionDecodingInvertsEncoding : Obligations.TranspositionDecodingInvertsEncoding := by
  refine ⟨fun K P hK _ => ?_, fun s t s2 h hcode hin2 hkey2 hkeyBytes hinBytes => ?_⟩
  · rw [transposeDecode_transposeEncode P (by omega)]
    exact ⟨stripFiller_eq_take P, stripsTo_stripFiller P⟩
  obtain ⟨hin, hkey, kb, bs, hkb, hK, hbs, hletters, rfl⟩ := columnCommand_success h hcode
  simp only [State.complete_outLen, State.writeGrid_outLen, State.complete_byte] at hin2 hinBytes ⊢
  refine ⟨bs, hbs, fun hlong => columnCommand_tooLong (.inl (hin2 ▸ hlong)), fun hfits => ?_⟩
  have hKlen := filterText_bytes_length_le hkb
  have hPlen := filterText_bytes_length_le hbs
  have hstrip := stripFiller_length_le (filterText bs)
  have hTlen := transposeEncode_length_lt (filterText bs) (show 0 < (filterText kb).length by omega)
  have hout := State.writeOut_outLen_toNat s (T := transposeEncode (filterText kb) (filterText bs)) (by omega)
  have hTfits := hout.symm.trans_le hfits
  have hin2' := (congrArg BitVec.toNat hin2).trans hout
  have hkb2 : s2.bytes .keyBuf s2.keyLen.toNat = some kb := by rw [hkey2, State.bytes_congr hkeyBytes, hkb]
  have hread : s2.bytes .inBuf s2.inLen.toNat =
      some ((transposeEncode (filterText kb) (filterText bs)).map letterByte) := hin2' ▸ bytes_of_writeOut fun k hk =>
    (hinBytes k (hk.trans_eq hout.symm) (by omega)).trans (byte_writeGrid_outBuf s _ (by omega) (by omega) hk)
  obtain ⟨rows, hdec⟩ := coldec_of_encoded (hin2'.trans_le hTfits) (hkey2 ▸ hkey) hkb2 hK hletters hread
  have hout2 := State.writeOut_outLen_toNat s2 (T := stripFiller (filterText bs)) (by omega)
  refine ⟨_, hdec, State.complete_errCode _ _, ?_⟩
  simp only [State.complete_outLen, State.writeGrid_outLen, State.complete_byte, hout2]
  refine ⟨stripsTo_stripFiller _, fun k hk => ?_⟩
  rw [byte_writeGrid_outBuf s2 _ (by omega) (by omega) hk, byte_writeOut s2 hk, stripFiller_getElem hk]

end Sys2Proof.Machine
end

section
/-! PROOFS. What the RSA commands write, and that decryption inverts encryption under a generated key (44_rsa.md R600 to
R603). -/

namespace Sys2Proof.Machine

/-! ## The key tuple (R600) -/

theorem isPrime_eq_false {n : Nat} : isPrime n = false ↔ ¬ Nat.Prime n := by
  rw [← isPrime_eq_true, Bool.not_eq_true]

/-- The InvalidKey test of RSAKEYGEN, on the operand registers. -/
theorem rsakeygen_invalidKey_iff {s : State} :
    (isPrime s.u0 = false ∨ isPrime s.u1 = false ∨ s.u0 = s.u1) ↔
      (¬ Nat.Prime s.op0.toNat ∨ ¬ Nat.Prime s.op1.toNat ∨ s.op0 = s.op1) := by
  rw [isPrime_eq_false, isPrime_eq_false, State.u0, State.u1, u, u, BitVec.toNat_inj]

/-- Settles O24: past the two checks the tuple is a good key, and the ranges of its parts are those of any good key. -/
theorem rsakeygenMakesTheKey : Obligations.RsakeygenMakesTheKey := by
  intro s
  have hpass (hp : Nat.Prime s.op0.toNat) (hq : Nat.Prime s.op1.toNat) (hne : s.op0 ≠ s.op1) :
      ¬ (isPrime s.u0 = false ∨ isPrime s.u1 = false ∨ s.u0 = s.u1) := by
    simp [rsakeygen_invalidKey_iff, hp, hq, hne]
  refine ⟨fun hbad => if_pos (rsakeygen_invalidKey_iff.2 hbad),
    fun hp hq hne hbig => (if_neg (hpass hp hq hne)).trans (if_pos hbig), fun hp hq hne hsmall => ?_⟩
  have hkey := goodKey_of_primes hp hq (mt BitVec.eq_of_toNat_eq hne)
  have ⟨_, _, hgcd, hfirst, _, hinv⟩ := hkey
  obtain ⟨-, hlow, hhigh, hpos, hlt⟩ := hkey.ranges
  exact ⟨_, _, _, rfl, hlow, hkey.odd_exponent, hhigh, hgcd, hfirst, hpos, hlt, hinv,
    (if_neg (hpass hp hq hne)).trans (if_neg (Nat.not_le.2 hsmall))⟩

/-! ## The two powers (R601, R602) -/

/-- Settles O25: past the check for a residue, `ModPow` is the power reduced. -/
theorem rsaencEncryptsResidues : Obligations.RsaencEncryptsResidues := by
  intro s
  refine ⟨fun hlarge => if_pos hlarge, fun hresidue => ?_⟩
  rw [← State.finish_modPow]
  exact if_neg (Nat.not_le.2 hresidue)

/-- Settles O26: past the check for a zero modulus, `ModPow` is the power reduced, whatever the size of the base. -/
theorem rsadecDecryptsAnything : Obligations.RsadecDecryptsAnything := by
  intro s
  refine ⟨fun hzero => if_pos hzero, fun hpos => ?_⟩
  rw [← State.finish_modPow]
  exact if_neg hpos

/-! ## The key laws (R603) -/

/-- Fermat's theorem for every base, also a multiple of `p`. -/
theorem pow_modEq_self {p k : Nat} (hp : Nat.Prime p) (hk : 0 < k) (hdvd : p - 1 ∣ k - 1) (m : Nat) :
    m ^ k ≡ m [MOD p] := by
  have hint := Int.ModEq.pow_eq_pow hp hdvd hk Nat.one_pos m
  rw [pow_one] at hint
  exact_mod_cast hint

/-- The exponents of a good key undo each other on every base: modulo each of the two primes by Fermat's theorem, and so
modulo their product. -/
theorem GoodKey.pow_mul_modEq {n phi e d : Nat} (h : GoodKey n phi e d) (m : Nat) : m ^ (e * d) ≡ m [MOD n] := by
  obtain ⟨⟨p, q, hp, hq, hne, rfl, rfl⟩, -, -, -, -, hinv⟩ := h
  have hpos : 0 < e * d := Nat.pos_of_ne_zero fun hzero => by simp [hzero] at hinv
  have hdvd : (p - 1) * (q - 1) ∣ e * d - 1 := by
    simpa only [hinv] using Nat.dvd_sub_mod (n := (p - 1) * (q - 1)) (e * d)
  exact (Nat.modEq_and_modEq_iff_modEq_mul ((Nat.coprime_primes hp hq).2 hne)).1
    ⟨pow_modEq_self hp hpos (dvd_of_mul_right_dvd hdvd) m, pow_modEq_self hq hpos (dvd_of_mul_left_dvd hdvd) m⟩

/-- Decryption inverts encryption on the residues of a good key. -/
theorem GoodKey.pow_mod_pow_mod {n phi e d m : Nat} (h : GoodKey n phi e d) (hm : m < n) : (m ^ e % n) ^ d % n = m := by
  rw [← Nat.pow_mod, ← pow_mul]
  exact Nat.mod_eq_of_modEq (h.pow_mul_modEq m) hm

/-- A successful RSAKEYGEN leaves a good key in the KEY registers. -/
theorem rsakeygen_goodKey {s t : State} (h : exec .rsakeygen s = .next t) (hcode : t.errCode = 0) :
    GoodKey t.keyN.toNat t.keyPhi.toNat t.keyE.toNat t.keyD.toNat := by
  obtain ⟨hn, e, d, hkey, rfl⟩ := rsakeygen_success h hcode
  obtain ⟨hkeyN, hkeyPhi, hkeyE, hkeyD⟩ := s.toNat_putKey hn hkey
  simpa only [State.complete_keyN, State.complete_keyPhi, State.complete_keyE, State.complete_keyD,
    State.validateKey_keyN, State.validateKey_keyPhi, State.validateKey_keyE, State.validateKey_keyD,
    hkeyN, hkeyPhi, hkeyE, hkeyD] using hkey

/-- Settles O27: RSADEC answers a power of RSAENC's power, which the good key reduces to the message. -/
theorem rsaDecryptionInvertsEncryption : Obligations.RsaDecryptionInvertsEncryption := by
  intro s t h hcode
  have hkey := rsakeygen_goodKey h hcode
  have ⟨_, _, _, _, _, hinv⟩ := hkey
  refine ⟨hinv, fun s1 he hn hm => ⟨_, (rsaencEncryptsResidues s1).2 (hn ▸ hm), rfl, fun s2 hc hd hn2 =>
    ⟨_, (rsadecDecryptsAnything s2).2 (by rw [hn2]; omega), rfl, ?_⟩⟩⟩
  have hfits : s1.op0.toNat ^ t.keyE.toNat % t.keyN.toNat < 2 ^ 64 := (Nat.mod_lt _ (by omega)).trans t.keyN.isLt
  simp only [State.afterSuccess] at hc ⊢
  rw [hc, hd, hn2, he, hn, BitVec.toNat_ofNat, Nat.mod_eq_of_lt hfits, hkey.pow_mod_pow_mod hm, BitVec.ofNat_toNat,
    BitVec.setWidth_eq]

end Sys2Proof.Machine
end

section
/-! PROOFS. What a command that raises an error leaves (60_exceptions.md R702; 44_rsa.md R600). -/

namespace Sys2Proof.Machine

/-- An error's completion writes the code and the flags, and nothing else. -/
theorem State.complete_some_eq_afterError (s : State) (e : CmdError) :
    s.complete (some e) = s.afterError (s.complete (some e)).errCode := rfl

/-- The model's `KeyFail` is the zeroed key of R702's one exception. -/
theorem State.putKey_zero (s : State) : s.putKey 0 0 0 0 = s.zeroKey := rfl

/-- Settles O12: of what a command can answer, only the two errors have a code, and RSAKEYGEN's zeroes the key first. -/
theorem errorsLeaveOutputsUnchanged : Obligations.ErrorsLeaveOutputsUnchanged := by
  intro i s t h hcode
  cases exec_answers h with
  | error hi => exact ⟨fun _ => s.complete_some_eq_afterError _, fun hkey => absurd hkey hi⟩
  | keyError =>
    rw [State.putKey_zero]
    exact ⟨fun hi => absurd rfl hi, fun _ => s.zeroKey.complete_some_eq_afterError _⟩
  | result | key | text | grid => exact absurd rfl hcode

end Sys2Proof.Machine
end

section
/-! PROOFS. The canonical form of a memory is determined by what it reads at every offset (93_implementation_defined.md
I1). -/

namespace Sys2Proof.Machine.Memory

@[simp] theorem read_cons_self (k : Nat) (v : Byte) (m : Memory) : Memory.read ((k, v) :: m) k = some v := by
  rw [read, if_pos rfl]

theorem read_cons_other {k x : Nat} (v : Byte) (m : Memory) (h : x ≠ k) : Memory.read ((k, v) :: m) x = m.read x := by
  rw [read, if_neg h.symm]

theorem wf_of_risesAbove {m : Memory} {lo : Nat} (h : m.risesAbove lo = true) : m.wf = true := by
  cases m with
  | nil => rfl
  | cons c m => exact (Bool.and_eq_true_iff.1 h).2

/-- The first offset listed is the least that holds a value. -/
theorem le_of_read_cons_eq_some {k a : Nat} {v b : Byte} {m : Memory} (h : m.risesAbove k = true)
    (hread : Memory.read ((k, v) :: m) a = some b) : k ≤ a := by
  by_contra hlt
  rw [read_cons_other v m (by omega), read_eq_none_of_risesAbove h (by omega)] at hread
  exact Option.some_ne_none b hread.symm

theorem head_eq_of_read_eq {k k' : Nat} {v v' : Byte} {m m' : Memory} (h : m.risesAbove k = true)
    (h' : m'.risesAbove k' = true) (hread : ∀ x, Memory.read ((k, v) :: m) x = Memory.read ((k', v') :: m') x) :
    k = k' ∧ v = v' := by
  have hk : k = k' := Nat.le_antisymm
    (le_of_read_cons_eq_some h ((hread k').trans (read_cons_self k' v' m')))
    (le_of_read_cons_eq_some h' ((hread k).symm.trans (read_cons_self k v m)))
  subst hk
  exact ⟨rfl, by simpa using hread k⟩

theorem tail_read_eq_of_read_eq {k : Nat} {v : Byte} {m m' : Memory} (h : m.risesAbove k = true)
    (h' : m'.risesAbove k = true) (hread : ∀ x, Memory.read ((k, v) :: m) x = Memory.read ((k, v) :: m') x)
    (x : Nat) : m.read x = m'.read x := by
  by_cases hx : x = k
  · rw [read_eq_none_of_risesAbove h hx.le, read_eq_none_of_risesAbove h' hx.le]
  · rw [← read_cons_other v m hx, hread x, read_cons_other v m' hx]

theorem eq_of_read_eq {m m' : Memory} (h : m.wf = true) (h' : m'.wf = true) (hread : ∀ x, m.read x = m'.read x) :
    m = m' := by
  induction m generalizing m' with
  | nil =>
    cases m' with
    | nil => rfl
    | cons c' m' => exact absurd ((read_cons_self c'.1 c'.2 m').symm.trans (hread c'.1).symm) (Option.some_ne_none _)
  | cons c m ih =>
    cases m' with
    | nil => exact absurd ((read_cons_self c.1 c.2 m).symm.trans (hread c.1)) (Option.some_ne_none _)
    | cons c' m' =>
      obtain ⟨k, v⟩ := c
      obtain ⟨k', v'⟩ := c'
      obtain ⟨rfl, rfl⟩ := head_eq_of_read_eq h h' hread
      rw [ih (wf_of_risesAbove h) (wf_of_risesAbove h') (tail_read_eq_of_read_eq h h' hread)]

/-- Settles O55: the entries agree from the least offset up. -/
theorem canonicalMemoriesAreEqualWhenReadAlike : Obligations.CanonicalMemoriesAreEqualWhenReadAlike :=
  fun _ _ => eq_of_read_eq

end Sys2Proof.Machine.Memory
end

section
/-! PROOFS. A command's word as the host hands it over: the decoder it asks, and the step that runs the placed word
(30_encoding.md R301; 40_codec_and_command.md R401, R402). -/

namespace Sys2Proof.Machine

/-! ## The host's decoder -/

/-- A word of 32 bits is placed as it is. -/
theorem ofNat_toNat_mod (w : Word32) : BitVec.ofNat 32 (w.toNat % 2 ^ 32) = w := by
  rw [Nat.mod_eq_of_lt w.isLt, BitVec.ofNat_toNat, BitVec.setWidth_eq]

theorem decodeTableWord_toNat (w : Word32) : decodeTableWord 32 w.toNat = (decode w).toOption := by
  rw [decodeTableWord, ofNat_toNat_mod]

theorem decodeTableWord_encode (i : Instr) : decodeTableWord 32 (encode i).toNat = some i := by
  rw [decodeTableWord_toNat, decode_encode]
  rfl

theorem decodeTableWord_of_rsvdField_ne_zero {w : Word32} (h : rsvdField w ≠ 0) :
    decodeTableWord 32 w.toNat = none := by
  rw [decodeTableWord_toNat, decode, if_neg h]
  rfl

/-- Settles O2: four of the words are their commands' own, and the fifth has RSVD = 1. -/
theorem tableWordsDecodeToTheirRows : Obligations.TableWordsDecodeToTheirRows :=
  ⟨decodeTableWord_encode .modexp, decodeTableWord_encode .rsakeygen, decodeTableWord_encode .affenc,
    decodeTableWord_encode .coldec, decodeTableWord_of_rsvdField_ne_zero (w := 0x00000104) (by decide)⟩

/-! ## A placed word -/

theorem encode_injective {i j : Instr} (h : encode i = encode j) : i = j :=
  Except.ok.inj ((decode_encode i).symm.trans (decode_eq_ok.2 h))

/-- The step after a word is placed is the engine's turn on the state that accepted it. -/
theorem step_withFetchWord (s : State) (w : Word32) : step (s.withFetchWord 32 w.toNat) = engineTurn (s.accept w) := by
  rw [State.withFetchWord, ofNat_toNat_mod]
  exact step_engine (State.accept_turns _ w)

/-- Settles O3: the placed word is accepted, and the engine's turn runs the command it decodes to. -/
theorem encodedCommandRunsAsItself : Obligations.EncodedCommandRunsAsItself := by
  intro i j s _
  exact ⟨decode_encode i, encode_injective, decodeTableWord_encode i,
    (step_withFetchWord s (encode i)).trans (engineTurn_command (s.accept_busy _) (decode_encode i))⟩

end Sys2Proof.Machine
end
